-- ==== Sys2Proof/Word.lean ====
section
/-! DEFINITION. The word types of the block: 00_scope.md R8 (every host register is 32 bits) and
10_state.md R34 (a Color is a 32-bit word; every 32-bit word is a legal Color). -/

namespace Sys2Proof

/-- A host register (R8). -/
abbrev Word := BitVec 32

/-- One byte of a stream or of a buffer. -/
abbrev Byte := BitVec 8

/-- A u16 header field (R8, R31). -/
abbrev Half := BitVec 16

/-- A pixel: blue in bits 7:0, green in 15:8, red in 23:16, alpha in 31:24 (R34). -/
abbrev Color := BitVec 32

end Sys2Proof
end

