-- ==== Sys2Proof/Syntax.lean ====
section
/-! DEFINITION. The commands of the block, one constructor per row of spec/opcode_table.json
(30_encoding.md R63). No command carries an operand in its word (R61, R64): the operands come from
the command latch, so no constructor has a field. -/

namespace Sys2Proof

/-- The twelve commands of R63. -/
inductive Instr where
  /-- 0x01 DECODE (40_codec.md R80) -/
  | decode
  /-- 0x02 ENCODE (40_codec.md R85) -/
  | encode
  /-- 0x03 CONSTRUCT (41_buffer.md R89) -/
  | construct
  /-- 0x04 CONSTRUCT_C (41_buffer.md R91) -/
  | constructC
  /-- 0x05 GET_PIXEL (41_buffer.md R92) -/
  | getPixel
  /-- 0x10 SET_PIXEL (42_point_rect.md R95) -/
  | setPixel
  /-- 0x11 DRAW_LINE (43_line.md R101) -/
  | drawLine
  /-- 0x12 DRAW_CIRCLE (44_circle.md R105) -/
  | drawCircle
  /-- 0x13 RECT_OUTLINE (42_point_rect.md R98) -/
  | rectOutline
  /-- 0x14 RECT_FILL (42_point_rect.md R99) -/
  | rectFill
  /-- 0x15 DRAW_TRIANGLE (45_triangle_upscale.md R107) -/
  | drawTriangle
  /-- 0x20 UPSCALE (45_triangle_upscale.md R108) -/
  | upscale
deriving DecidableEq, Repr

end Sys2Proof
end

