-- ==== Sys2Proof/WellFormed.lean ====
section
/-! DEFINITION. Which command words are well formed. A command of `Instr` has no operand that could
be ill formed (30_encoding.md R61), so the checks are on the word's two fields, written here from
R65's list of illegal words, and not from R63's table: that the decoder, which is written from R63,
accepts exactly the words these checks pass is a statement, not a definition. -/

namespace Sys2Proof

/-- R61: the two fields of a command word. -/
structure CommandWord where
  /-- bits 7:0 -/
  opc : BitVec 8
  /-- bits 31:8 -/
  rsv : BitVec 24
deriving DecidableEq, Repr

/-- R61: "reserved; must be 0". -/
def CommandWord.rsvZero (c : CommandWord) : Bool := c.rsv == 0

/-- R65: the OPC values that are illegal are 0x00, 0x06..0x0F, 0x16..0x1F and 0x21..0xFF. -/
def CommandWord.opcAssigned (c : CommandWord) : Bool :=
  let o := c.opc.toNat
  !(o == 0 || (decide (0x06 ≤ o) && decide (o ≤ 0x0F)) || (decide (0x16 ≤ o) && decide (o ≤ 0x1F))
    || decide (0x21 ≤ o))

/-- R65: a word is legal when its RSV is 0 and its OPC is assigned. -/
def CommandWord.wf (c : CommandWord) : Bool := c.rsvZero && c.opcAssigned

end Sys2Proof
end

