-- ==== Sys2Proof/Decode.lean ====
section
/-! DEFINITION. The command decoder (30_encoding.md R61 to R65) and, after it, the encoder, both
from the one opcode column of R63. -/

namespace Sys2Proof

/-- Why a word or a byte list is no command. -/
inductive DecodeError where
  /-- R61, R65: bits 31:8 are not 0 -/
  | reservedBits
  /-- R65: OPC is not in R63's column -/
  | unassignedOpcode
  /-- fewer than the four bytes of a command word (R61: "a decoder always sees exactly one word") -/
  | shortWord
deriving DecidableEq, Repr

/-- R63: the OPC column, in the table's order. -/
def opcodeTable : List (BitVec 8 × Instr) :=
  [(0x01, .decode), (0x02, .encode), (0x03, .construct), (0x04, .constructC), (0x05, .getPixel),
   (0x10, .setPixel), (0x11, .drawLine), (0x12, .drawCircle), (0x13, .rectOutline),
   (0x14, .rectFill), (0x15, .drawTriangle), (0x20, .upscale)]

/-- The row of an OPC in a table of opcodes. -/
def lookupOpcode (o : BitVec 8) : List (BitVec 8 × Instr) → Option Instr
  | [] => none
  | (k, i) :: rest => if o = k then some i else lookupOpcode o rest

/-- R61: OPC is bits 7:0, RSV is bits 31:8. -/
def splitWord (v : Word) : CommandWord :=
  { opc := v.extractLsb' 0 8, rsv := v.extractLsb' 8 24 }

/-- R62: the decoding of a command word from its two fields. -/
def decodeFields (c : CommandWord) : Except DecodeError Instr :=
  if c.rsv = 0 then
    match lookupOpcode c.opc opcodeTable with
    | some i => .ok i
    | none => .error .unassignedOpcode
  else .error .reservedBits

/-- R62: the decoding of a command word, total on all 2^32 words. -/
def decode (v : Word) : Except DecodeError Instr := decodeFields (splitWord v)

/-- 20_memory.md R45: a 4-byte write puts data bits [8k+7:8k] at address a + k. -/
def wordOfBytes (b0 b1 b2 b3 : Byte) : Word := b3 ++ b2 ++ b1 ++ b0

/-- The decoder on the bytes of a 4-byte write to CMD, first byte at the lowest address (R45, R69):
the command and the bytes that follow. -/
def decodeBytes : List Byte → Except DecodeError (Instr × List Byte)
  | b0 :: b1 :: b2 :: b3 :: rest =>
    match decode (wordOfBytes b0 b1 b2 b3) with
    | .ok i => .ok (i, rest)
    | .error e => .error e
  | _ => .error .shortWord

/-- The `nbits` low bits of `w` as the command word, bits above them 0. -/
def tableWord (nbits w : Nat) : Word := BitVec.ofNat 32 (w % 2 ^ nbits)

/-- The four bytes of a command word as a write to CMD stores them (R45). -/
def bytesOfWord (v : Word) : List Byte :=
  [v.extractLsb' 0 8, v.extractLsb' 8 8, v.extractLsb' 16 8, v.extractLsb' 24 8]

/-- The host's question: the command the decoder reads from the table's bits. -/
def decodeTableWord (nbits w : Nat) : Option Instr :=
  match decodeBytes (bytesOfWord (tableWord nbits w)) with
  | .ok (i, _) => some i
  | .error _ => none

/-- R63: the OPC of a command. -/
def Instr.opcode (i : Instr) : BitVec 8 :=
  match i with
  | .decode => 0x01
  | .encode => 0x02
  | .construct => 0x03
  | .constructC => 0x04
  | .getPixel => 0x05
  | .setPixel => 0x10
  | .drawLine => 0x11
  | .drawCircle => 0x12
  | .rectOutline => 0x13
  | .rectFill => 0x14
  | .drawTriangle => 0x15
  | .upscale => 0x20

/-- R61, R63: the command word of a command: its OPC in bits 7:0, bits 31:8 zero. -/
def encode (i : Instr) : Word := (0#24 ++ i.opcode : BitVec 32)

/-- The bytes of the 4-byte write to CMD that issues the command (R45, R69). -/
def encodeBytes (i : Instr) : List Byte := bytesOfWord (encode i)

end Sys2Proof
end

