-- ==== Sys2Proof/Config.lean ====
section
/-! DEFINITION. The implementation parameters of 00_scope.md R6, with R6's constraints, and the free
values of 93_implementation_defined.md U3. -/

namespace Sys2Proof

/-- The named parameters of R6. The field defaults are the test settings of 95_test_vectors.md
("test settings, not the hardware's", 91_not_in_source.md N5) and arbitrary bases: they only show
that R6's constraints can be met. The machine after reset does not use them (`Config.params`). -/
structure Params where
  maxW : Nat := 4096
  maxH : Nat := 4096
  maxPixels : Nat := 1048576
  inCap : Nat := 8388608
  outCap : Nat := 8388608
  regBase : Nat := 0x40000000
  inBase : Nat := 0x50000000
  outBase : Nat := 0x60000000
deriving DecidableEq, Repr

/-- R44: the register window is 4 KiB. -/
def Params.regWindow : Nat := 0x1000

/-- Two windows `[a, a+m)` and `[b, b+n)` do not overlap (R6). -/
def Params.apart (a m b n : Nat) : Bool := decide (a + m ≤ b) || decide (b + n ≤ a)

/-- R6: the constraints on the extents of an image. -/
def Params.extentsOk (p : Params) : Bool :=
  decide (1 ≤ p.maxW) && decide (p.maxW < 2 ^ 32) && decide (1 ≤ p.maxH) && decide (p.maxH < 2 ^ 32)
    && decide (1 ≤ p.maxPixels) && decide (p.maxPixels ≤ p.maxW * p.maxH)
    && decide (54 + 4 * p.maxPixels ≤ 2 ^ 32 - 1)

/-- R6: the constraints on the two buffer capacities. -/
def Params.capsOk (p : Params) : Bool :=
  decide (54 ≤ p.inCap) && decide (p.inCap ≤ 2 ^ 32 - 1)
    && decide (54 + 4 * p.maxPixels ≤ p.outCap) && decide (p.outCap ≤ 2 ^ 32 - 1)

/-- R6: alignment of the windows, that each lies inside the 2^32-byte host space, and that no two
overlap. -/
def Params.windowsOk (p : Params) : Bool :=
  decide (p.regBase % 4096 = 0) && decide (p.inBase % 4 = 0) && decide (p.outBase % 4 = 0)
    && decide (p.regBase + Params.regWindow ≤ 2 ^ 32) && decide (p.inBase + p.inCap ≤ 2 ^ 32)
    && decide (p.outBase + p.outCap ≤ 2 ^ 32)
    && Params.apart p.regBase Params.regWindow p.inBase p.inCap
    && Params.apart p.regBase Params.regWindow p.outBase p.outCap
    && Params.apart p.inBase p.inCap p.outBase p.outCap

/-- R6: all the constraints. -/
def Params.wf (p : Params) : Bool := p.extentsOk && p.capsOk && p.windowsOk

/-- Parameters together with R6's constraints, so that an implementation's parameters cannot break
them. -/
structure ValidParams where
  val : Params := {}
  ok : val.wf = true := by decide
deriving Inhabited

/-- The parameters of the machine at hand (U11, U12: `parameter`). UNINTERPRETED: nothing can be
proved of them but R6's constraints (log 1). -/
opaque Config.params : ValidParams

/-- R40, U3: byte `i` of IN_BUF as drawn at the `draws`-th reset. UNINTERPRETED free value (log 2). -/
opaque Config.inBufFree : Nat → Nat → Byte

/-- R41, U3: byte `i` of OUT_BUF as drawn at the `draws`-th reset. UNINTERPRETED free value (log 2). -/
opaque Config.outBufFree : Nat → Nat → Byte

end Sys2Proof
end

