-- ==== Sys2Proof/Machine/State.lean ====
section
/-! DEFINITION. The state of the block: 10_state.md R14 names every piece of it. Beside it stand the
host's side of the bus (`script`, `turns`, `busLog`: log 5, 6) and the model's own draw counter
(`draws`, log 2). -/

namespace Sys2Proof.Machine

open Sys2Proof

/-- A byte buffer as the list of the bytes written since reset, by index, strictly rising. An index
that is not listed has no value of its own there: what it reads as is `State.inByte` and
`State.outByte` (R40, R41; log 4). -/
abbrev Memory := List Host.Cell

/-- 10_state.md R33: a row-major grid of Colors, row 0 first, column 0 first in its row. -/
abbrev Grid := List (List Color)

/-- R17: the argument registers. -/
structure Args where
  x0 : Word
  y0 : Word
  x1 : Word
  y1 : Word
  x2 : Word
  y2 : Word
  w : Word
  h : Word
  radius : Word
  thick : Word
  factor : Word
  bppArg : Word
  color0 : Color
  color1 : Color
deriving DecidableEq, Repr

/-- R17: every argument register resets to 0. -/
def Args.zero : Args :=
  { x0 := 0, y0 := 0, x1 := 0, y1 := 0, x2 := 0, y2 := 0, w := 0, h := 0, radius := 0, thick := 0,
    factor := 0, bppArg := 0, color0 := 0, color1 := 0 }

/-- 60_exceptions.md R111: the result codes. "No other code value is ever written." -/
inductive ResultCode where
  /-- 0x00 -/
  | none
  /-- 0x01: IN_LEN < 54 -/
  | fmtShortHeader
  /-- 0x02: stream bytes 0, 1 are not 0x42, 0x4D -/
  | fmtBadSignature
  /-- 0x03: bitsPerPixel not in 24, 32 -/
  | fmtUnsupportedDepth
  /-- 0x04: compression method not 0 -/
  | fmtUnsupportedCompression
  /-- 0x05: fewer pixel bytes than the image needs -/
  | fmtTruncatedPixelData
  /-- 0x08: a bounds-checked access out of range, or a failed rectangle precondition -/
  | index
  /-- 0x10: command word not in the opcode map -/
  | illegalCmd
  /-- 0x11: the command needs an image and VALID = 0 -/
  | noImage
  /-- 0x12: BPP_ARG not in 24, 32, or FACTOR = 0 -/
  | badArg
  /-- 0x13: the image would exceed MAX_W, MAX_H or MAX_PIXELS -/
  | capacity
deriving DecidableEq, Repr

/-- R21: the fields of STATUS. The reserved bits have no storage: they read as 0 (U13), and the
32-bit word is `Status.word`. -/
structure Status where
  busy : Bool
  done : Bool
  valid : Bool
  clip : Bool
  warnTrail : Bool
  warnHdrSize : Bool
  cmdLost : Bool
  err : ResultCode
deriving DecidableEq, Repr

/-- R21: STATUS after reset. -/
def Status.zero : Status :=
  { busy := false, done := false, valid := false, clip := false, warnTrail := false,
    warnHdrSize := false, cmdLost := false, err := .none }

/-- R25: the result flags a command completes with. -/
structure ResultFlags where
  clip : Bool := false
  warnTrail : Bool := false
  warnHdrSize : Bool := false
deriving DecidableEq, Repr

/-- R31: the fifteen header registers. A u16 field has 16 bits of storage and reads as 0 above. -/
structure Header where
  signature : Half
  fileSize : Word
  reserved : Word
  dataOffset : Word
  infoSize : Word
  width : Word
  height : Word
  planes : Half
  bpp : Half
  compression : Word
  pixelDataSize : Word
  trail0 : Word
  trail1 : Word
  trail2 : Word
  trail3 : Word
deriving DecidableEq, Repr

/-- R31: every header register resets to 0. -/
def Header.zero : Header :=
  { signature := 0, fileSize := 0, reserved := 0, dataOffset := 0, infoSize := 0, width := 0,
    height := 0, planes := 0, bpp := 0, compression := 0, pixelDataSize := 0, trail0 := 0,
    trail1 := 0, trail2 := 0, trail3 := 0 }

/-- R19: the command latch: CMD's value, every argument register and IN_LEN, as they stood when the
CMD write was accepted. -/
structure Latch where
  cmd : Word
  args : Args
  inLen : Word
deriving DecidableEq, Repr

/-- DESIGN CHOICE (log 3): the spec gives the latch no reset value (R19, R124: "never read while
BUSY = 0"). -/
def Latch.zero : Latch := { cmd := 0, args := Args.zero, inLen := 0 }

/-- 20_memory.md R47: the sizes of a bus access. -/
inductive Size where
  | one
  | two
  | four
deriving DecidableEq, Repr

/-- R47: a host bus access. A write of n bytes carries the low 8n bits of `data` (log 12). -/
inductive Access where
  | read (addr : Word) (size : Size)
  | write (addr : Word) (size : Size) (data : Word)
deriving DecidableEq, Repr

/-- R47: the two responses of the block. -/
inductive RespKind where
  | okay
  | slverr
deriving DecidableEq, Repr

/-- R47: a response, with the read data zero-extended to 32 bits (0 for a write and for SLVERR,
R52; log 12). -/
structure Response where
  kind : RespKind
  data : Word
deriving DecidableEq, Repr

/-- What the world outside does next: a bus access (R47), the polling loop WAIT (30_encoding.md
R68), or the reset input (70_reset_and_hazards.md R124). -/
inductive HostOp where
  | access (a : Access)
  | wait
  | reset
deriving DecidableEq, Repr

/-- 00_scope.md R5: the two agents. -/
inductive Agent where
  | host
  | engine
deriving DecidableEq, Repr

/-- Why the machine stops. -/
inductive Fault where
  /-- Raised by a command that needs the image (R63) when VALID = 1 and the header registers and PB
  break R32, and by nothing else. The spec says this case cannot arise and a model must not produce
  it (93_implementation_defined.md U1, U6). Safe: the model stops where the source's behaviour "is
  undefined", and no state that a run reaches is one of these (log 8). -/
  | imageInconsistent
deriving DecidableEq, Repr

/-- Why an instruction is refused. -/
inductive Refusal where
  /-- Raised by an arm of `exec` whose instruction has no meaning yet. No arm is one today. Safe: the
  model stops. -/
  | notModelled (mnemonic : String)
deriving DecidableEq, Repr

/-- R14: the state of the block, and the host's side of the bus. -/
structure State where
  /-- the parameters of R6: configuration, written by no step (R14; log 1) -/
  cfg : Params
  /-- the model's own: which reset the unspecified buffer bytes were drawn at (log 2) -/
  draws : Nat
  /-- R17 -/
  args : Args
  /-- CMD (R20) -/
  cmd : Word
  /-- STATUS (R21) -/
  status : Status
  /-- CTRL.IRQ_EN (R28) -/
  irqEn : Bool
  /-- IN_LEN (R37) -/
  inLen : Word
  /-- OUT_LEN (R36) -/
  outLen : Word
  /-- RESULT (R35) -/
  result : Color
  /-- HDR_* (R31) -/
  hdr : Header
  /-- PB (R33) -/
  pb : Grid
  /-- IN_BUF (R40) -/
  inBuf : Memory
  /-- OUT_BUF (R41) -/
  outBuf : Memory
  /-- the command latch (R19) -/
  latch : Latch
  /-- the host's operations still to come (log 6) -/
  script : List HostOp
  /-- who moves next, as far as it is fixed (20_memory.md R56; log 5) -/
  turns : List Agent
  /-- the accesses made and the block's answers, newest first; `none` where the block does not
  respond (20_memory.md R44; log 6, 7) -/
  busLog : List (Access × Option Response)
deriving DecidableEq, Repr

/-- 70_reset_and_hazards.md R124: the block after reset, for parameters `p`, at the `draws`-th reset.
Nothing is placed in the buffers and the host has nothing to do yet. -/
def State.resetWith (p : Params) (draws : Nat) : State :=
  { cfg := p, draws := draws, args := Args.zero, cmd := 0, status := Status.zero, irqEn := false,
    inLen := 0, outLen := 0, result := 0, hdr := Header.zero, pb := [], inBuf := [], outBuf := [],
    latch := Latch.zero, script := [], turns := [], busLog := [] }

/-- The machine right after reset (R124), with the parameters of the machine at hand. -/
def State.reset : State := State.resetWith Config.params.val 0

end Sys2Proof.Machine
end

