-- ==== Sys2Proof/Machine/Flags.lean ====
section
/-! DEFINITION. Every flag computation of the spec: the result codes' numbers (60_exceptions.md
R111), the STATUS word (10_state.md R21), its W1C write, the flags at acceptance (R20) and at
completion (R112), the CTRL word (R28) and the interrupt line (R42, R120). -/

namespace Sys2Proof.Machine

open Sys2Proof

/-- R111: the code column. -/
def ResultCode.code (e : ResultCode) : Byte :=
  match e with
  | .none => 0x00
  | .fmtShortHeader => 0x01
  | .fmtBadSignature => 0x02
  | .fmtUnsupportedDepth => 0x03
  | .fmtUnsupportedCompression => 0x04
  | .fmtTruncatedPixelData => 0x05
  | .index => 0x08
  | .illegalCmd => 0x10
  | .noImage => 0x11
  | .badArg => 0x12
  | .capacity => 0x13

/-- R21: the 32-bit STATUS register, ERR in bits 15:8, bit 7 and bits 31:16 zero. -/
def Status.word (t : Status) : Word :=
  0#16 ++ t.err.code ++ 0#1 ++ BitVec.ofBool t.cmdLost ++ BitVec.ofBool t.warnHdrSize
    ++ BitVec.ofBool t.warnTrail ++ BitVec.ofBool t.clip ++ BitVec.ofBool t.valid
    ++ BitVec.ofBool t.done ++ BitVec.ofBool t.busy

/-- R21: a host write of `v` clears DONE if bit 1 of `v` is 1 and CMD_LOST if bit 6 is 1, and changes
nothing else. -/
def Status.writeOneToClear (t : Status) (v : Word) : Status :=
  { t with
    done := t.done && !v.getLsbD 1
    cmdLost := t.cmdLost && !v.getLsbD 6 }

/-- R20: STATUS when a CMD write is accepted: BUSY set, the result flags and ERR cleared. DONE, VALID
and CMD_LOST stay (92_eei_decisions.md D44). -/
def Status.accepted (t : Status) : Status :=
  { t with busy := true, clip := false, warnTrail := false, warnHdrSize := false, err := .none }

/-- R20: STATUS when a CMD write is dropped. -/
def Status.dropped (t : Status) : Status := { t with cmdLost := true }

/-- R112: STATUS at completion. -/
def Status.completed (t : Status) (e : ResultCode) (f : ResultFlags) : Status :=
  { t with
    busy := false
    done := true
    err := e
    clip := f.clip
    warnTrail := f.warnTrail
    warnHdrSize := f.warnHdrSize }

/-- R24: STATUS once an image is present. -/
def Status.withImage (t : Status) : Status := { t with valid := true }

/-- R28: the CTRL register, IRQ_EN in bit 0, bits 31:1 zero. -/
def ctrlWord (irqEn : Bool) : Word := 0#31 ++ BitVec.ofBool irqEn

/-- R28: what a host write of `v` to CTRL stores. -/
def ctrlWrite (v : Word) : Bool := v.getLsbD 0

/-- R42, R120: `irq = STATUS.DONE and CTRL.IRQ_EN`, not stored. -/
def State.irq (s : State) : Bool := s.status.done && s.irqEn

end Sys2Proof.Machine
end

