-- ==== Sys2Proof/Machine/Operands.lean ====
section
/-! DEFINITION. Every operand form of the spec (30_encoding.md R64, 10_state.md R17): coordinates and
RADIUS with sext_32, extents with zext_32, Colors as they are; all from the latch (R19), none from
the argument registers. Also the bounds test (00_scope.md R11) and the rectangle precondition
(42_point_rect.md R97). -/

namespace Sys2Proof.Machine

open Sys2Proof

/-- 00_scope.md R9: the pattern as a two's-complement integer. -/
def sext32 (v : Word) : Int := v.toInt

/-- R9: the pattern as an unsigned integer. -/
def zext32 (v : Word) : Nat := v.toNat

/-- R9: `trunc_32(n)`, the integer n mod 2^32, as a register value. -/
def trunc32 (n : Nat) : Word := BitVec.ofNat 32 n

def State.opX0 (s : State) : Int := sext32 s.latch.args.x0
def State.opY0 (s : State) : Int := sext32 s.latch.args.y0
def State.opX1 (s : State) : Int := sext32 s.latch.args.x1
def State.opY1 (s : State) : Int := sext32 s.latch.args.y1
def State.opX2 (s : State) : Int := sext32 s.latch.args.x2
def State.opY2 (s : State) : Int := sext32 s.latch.args.y2
def State.opRadius (s : State) : Int := sext32 s.latch.args.radius
def State.opW (s : State) : Nat := zext32 s.latch.args.w
def State.opH (s : State) : Nat := zext32 s.latch.args.h
def State.opThick (s : State) : Nat := zext32 s.latch.args.thick
def State.opFactor (s : State) : Nat := zext32 s.latch.args.factor
def State.opBpp (s : State) : Nat := zext32 s.latch.args.bppArg
def State.opColor0 (s : State) : Color := s.latch.args.color0
def State.opColor1 (s : State) : Color := s.latch.args.color1
def State.opInLen (s : State) : Nat := zext32 s.latch.inLen

/-- 10_state.md R33: the width of the image, in pixels. -/
def State.width (s : State) : Nat := zext32 s.hdr.width

/-- R33: the height of the image, in pixels. -/
def State.height (s : State) : Nat := zext32 s.hdr.height

/-- R73: the depth of the image, in bits per pixel. -/
def State.depth (s : State) : Nat := s.hdr.bpp.toNat

/-- R11: `0 <= x < WIDTH and 0 <= y < HEIGHT`, for an image of `w` columns and `h` rows. -/
def inBounds (w h : Nat) (x y : Int) : Bool :=
  decide (0 ≤ x) && decide (x < w) && decide (0 ≤ y) && decide (y < h)

/-- R97: `x0 >= 0 and y0 >= 0 and x0 + w <= HDR_WIDTH and y0 + h <= HDR_HEIGHT`, in exact integers. -/
def State.rectOk (s : State) : Bool :=
  decide (0 ≤ s.opX0) && decide (0 ≤ s.opY0) && decide (s.opX0 + (s.opW : Int) ≤ (s.width : Int))
    && decide (s.opY0 + (s.opH : Int) ≤ (s.height : Int))

/-- R89, R80: the depths the block supports (00_scope.md R2). -/
def depthOk (bpp : Nat) : Bool := bpp == 24 || bpp == 32

/-- R80, R89, R91, R108: `w > MAX_W or h > MAX_H or w*h > MAX_PIXELS`. -/
def overCapacity (p : Params) (w h : Nat) : Bool :=
  decide (p.maxW < w) || decide (p.maxH < h) || decide (p.maxPixels < w * h)

end Sys2Proof.Machine
end

