-- ==== Sys2Proof/Machine/Ops.lean ====
section
/-! DEFINITION. The named operations over the buffers, the pixel grid and the registers that the
commands and the bus share, with completion (60_exceptions.md R112) and the raising of an error
(R113). The block takes no traps and has no return from one (R118, R121): `raise` is the whole of
its exception mechanism. -/

namespace Sys2Proof.Machine

open Sys2Proof

/-! ### Byte buffers (10_state.md R40, R41) -/

/-- The byte listed at index `a`, if one has been written since reset. -/
def Memory.find (m : Memory) (a : Nat) : Option Byte :=
  match m with
  | [] => none
  | (k, b) :: rest => if k = a then some b else Memory.find rest a

/-- Set byte `a` to `b`, keeping the list strictly rising. -/
def Memory.write (m : Memory) (a : Nat) (b : Byte) : Memory :=
  match m with
  | [] => [(a, b)]
  | (k, v) :: rest =>
    if a < k then (a, b) :: (k, v) :: rest
    else if a = k then (a, b) :: rest
    else (k, v) :: Memory.write rest a b

/-- Set the bytes of a list of cells, in its order. -/
def Memory.writeAll (m : Memory) (cells : List Host.Cell) : Memory :=
  match cells with
  | [] => m
  | (a, b) :: rest => Memory.writeAll (Memory.write m a b) rest

/-- The canonical form: indexes strictly rising. An unlisted index has no value of its own, so no
entry can equal it (log 4). -/
def Memory.wf (m : Memory) : Bool :=
  match m with
  | [] => true
  | [_] => true
  | (a, _) :: (b, v) :: rest => decide (a < b) && Memory.wf ((b, v) :: rest)

/-- Every listed index is below the capacity. -/
def Memory.below (m : Memory) (cap : Nat) : Bool := m.all fun c => decide (c.1 < cap)

/-- R11 `InByte(i)`: byte `i` of IN_BUF; a byte that nothing has written since reset is a free draw,
held until written (R40, U3; log 2). -/
def State.inByte (s : State) (i : Nat) : Byte :=
  (Memory.find s.inBuf i).getD (Config.inBufFree s.draws i)

/-- Byte `i` of OUT_BUF, with the free draw of R41 where nothing has been written (U3, U4; log 2). -/
def State.outByte (s : State) (i : Nat) : Byte :=
  (Memory.find s.outBuf i).getD (Config.outBufFree s.draws i)

/-- R71, R45: `sum_{k<n} byte(i+k) * 2^(8k)`. -/
def leSum (byte : Nat → Byte) (i : Nat) (n : Nat) : Nat :=
  match n with
  | 0 => 0
  | k + 1 => leSum byte i k + (byte (i + k)).toNat * 2 ^ (8 * k)

/-- R72, R45: the cells of an n-byte little-endian field of value `v` at offset `o`. -/
def leCells (o n v : Nat) : List Host.Cell :=
  (List.range n).map fun i => (o + i, BitVec.ofNat 8 (v / 2 ^ (8 * i)))

/-! ### The pixel grid (10_state.md R33) -/

/-- `PB[y][x]`, where the grid has such a pixel. -/
def Grid.get? (g : Grid) (x y : Nat) : Option Color := g[y]?.bind fun row => row[x]?

/-- `PB[y][x] <- c`. A pixel the grid does not have is not written. -/
def Grid.put (g : Grid) (x y : Nat) (c : Color) : Grid := g.modify y fun row => row.set x c

/-- `h` rows of `w` pixels, the pixel in row `y`, column `x` being `f x y`. -/
def Grid.build (w h : Nat) (f : Nat → Nat → Color) : Grid :=
  (List.range h).map fun y => (List.range w).map fun x => f x y

/-- R89: `h` rows of `w` pixels, every pixel `c`. -/
def Grid.filled (w h : Nat) (c : Color) : Grid := List.replicate h (List.replicate w c)

/-- Exactly `h` rows of `w` pixels (R33). -/
def Grid.hasShape (g : Grid) (w h : Nat) : Bool := g.length == h && g.all fun row => row.length == w

/-- One row, whose first pixel stands in column `x`, with `c` written where `sel` says. -/
def paintRow (sel : Nat → Bool) (c : Color) (x : Nat) (row : List Color) : List Color :=
  match row with
  | [] => []
  | p :: rest => (if sel x then c else p) :: paintRow sel c (x + 1) rest

/-- The rows from row `y` on, with `c` written at every pixel where `sel x y` holds. -/
def paintRows (sel : Nat → Nat → Bool) (c : Color) (y : Nat) (g : Grid) : Grid :=
  match g with
  | [] => []
  | row :: rest => paintRow (fun x => sel x y) c 0 row :: paintRows sel c (y + 1) rest

/-- `PB[y][x] <- c` at every pixel of the grid where `sel x y` holds. The writes of one command all
carry one colour, so their order does not matter (42_point_rect.md R94, D50; log 11). -/
def Grid.paint (g : Grid) (sel : Nat → Nat → Bool) (c : Color) : Grid := paintRows sel c 0 g

/-- R94: the clip-silently pixel write; the Bool is `clipped`. -/
def plot (w h : Nat) (c : Color) (g : Grid) (x y : Int) : Grid × Bool :=
  if inBounds w h x y then (Grid.put g x.toNat y.toNat c, false) else (g, true)

/-- R101, R105, R107: plot every point in order; the Bool is `clip`, so far `clip`. -/
def plotAll (w h : Nat) (c : Color) (g : Grid) (clip : Bool) (pts : List (Int × Int)) :
    Grid × Bool :=
  match pts with
  | [] => (g, clip)
  | (x, y) :: rest =>
    plotAll w h c (plot w h c g x y).1 (clip || (plot w h c g x y).2) rest

/-! ### The image (10_state.md R32) -/

/-- R32 for VALID = 1: signature, depth, compression, capacity, and the shape of PB. -/
def State.imageOk (s : State) : Bool :=
  s.hdr.signature == 0x4D42 && depthOk s.depth && s.hdr.compression == 0
    && !overCapacity s.cfg s.width s.height && Grid.hasShape s.pb s.width s.height

/-- R32 for VALID = 0: every header register is 0 and PB has 0 rows. -/
def State.imageAbsent (s : State) : Bool := s.hdr == Header.zero && s.pb == []

/-! ### Completion and errors (60_exceptions.md R112, R113) -/

/-- R112: `finish(err, flags)`. -/
def State.finish (s : State) (e : ResultCode) (f : ResultFlags) : State :=
  { s with status := s.status.completed e f }

/-- R113: `raise E` is `finish(E, {})` on the state the command started from: every image-state
write is discarded. -/
def State.raise (s : State) (e : ResultCode) : State := s.finish e {}

/-- R62, R65: an illegal command word completes with ILLEGAL_CMD. -/
def execIllegal (s : State) : Host.Outcome State Fault Refusal := .next (s.raise .illegalCmd)

/-- R114: a command that needs the image first checks VALID. The second check cannot fail in a state
that a run reaches (R32, U1, U6; log 8). -/
def State.needImage (s : State) (body : Host.Outcome State Fault Refusal) :
    Host.Outcome State Fault Refusal :=
  if s.status.valid then
    if s.imageOk then body else .fault .imageInconsistent
  else .next (s.raise .noImage)

/-- R80, R89, R91: commit a new image: all header registers, PB, and VALID. -/
def State.putImage (s : State) (hdr : Header) (pb : Grid) : State :=
  { s with hdr := hdr, pb := pb, status := s.status.withImage }

/-- The drawing commands' write of PB. -/
def State.putGrid (s : State) (pb : Grid) : State := { s with pb := pb }

/-- R109: UPSCALE's write of the header registers and PB, in one step. -/
def State.putScaled (s : State) (hdr : Header) (pb : Grid) : State := { s with hdr := hdr, pb := pb }

/-- R35: GET_PIXEL's write of RESULT. -/
def State.putResult (s : State) (c : Color) : State := { s with result := c }

/-- R85: ENCODE's writes of OUT_BUF and OUT_LEN. -/
def State.putOutput (s : State) (cells : List Host.Cell) (len : Word) : State :=
  { s with outBuf := Memory.writeAll s.outBuf cells, outLen := len }

/-- R101, R105, R107: plot the points on the image and complete, CLIP set when a point was clipped. -/
def State.drawPoints (s : State) (c : Color) (pts : List (Int × Int)) : State :=
  let r := plotAll s.width s.height c s.pb false pts
  (s.putGrid r.1).finish .none { clip := r.2 }

/-! ### Starting a command (10_state.md R19, R20) -/

/-- R20: an accepted write of `v` to CMD: CMD, the latch, BUSY, and the result flags and ERR. -/
def State.acceptCmd (s : State) (v : Word) : State :=
  { s with
    cmd := v
    latch := { cmd := v, args := s.args, inLen := s.inLen }
    status := s.status.accepted }

/-- R20: a dropped write to CMD. -/
def State.dropCmd (s : State) : State := { s with status := s.status.dropped }

/-- R20: a host write of `v` to CMD. -/
def State.writeCmd (s : State) (v : Word) : State :=
  if s.status.busy then s.dropCmd else s.acceptCmd v

/-- R55: the word the engine step decodes. -/
def State.latchedWord (s : State) : Word := s.latch.cmd

/-! ### Turns (20_memory.md R56) and reset (70_reset_and_hazards.md R124, R125) -/

/-- Who moves next: the head of `turns`; where nothing is fixed, the engine when it has a step (R55)
and else the host (log 5). -/
def State.nextAgent (s : State) : Agent :=
  match s.turns with
  | t :: _ => t
  | [] => if s.status.busy then .engine else .host

/-- The turn is spent. -/
def State.takeTurn (s : State) : State := { s with turns := s.turns.tail }

/-- R124, R125: reset replaces the whole state of the block; a running command is abandoned. The
unspecified buffer bytes are drawn anew, and the host's side stays (log 2, 14). -/
def State.resetEvent (s : State) : State :=
  { State.resetWith s.cfg (s.draws + 1) with
    script := s.script, turns := s.turns, busLog := s.busLog }

end Sys2Proof.Machine
end

