-- ==== Sys2Proof/Machine/Registers.lean ====
section
/-! DEFINITION. The register window's map: every register of 10_state.md with its offset (R17, R20,
R21, R28 to R31, R35 to R37), what a host read returns and what a host write does. -/

namespace Sys2Proof.Machine

open Sys2Proof

/-- The registers of 10_state.md, by their names. -/
inductive Reg where
  /-- CMD -/
  | cmd
  /-- STATUS -/
  | status
  /-- CTRL -/
  | ctrl
  /-- ID -/
  | id
  /-- X0 -/
  | x0
  /-- Y0 -/
  | y0
  /-- X1 -/
  | x1
  /-- Y1 -/
  | y1
  /-- X2 -/
  | x2
  /-- Y2 -/
  | y2
  /-- W -/
  | w
  /-- H -/
  | h
  /-- RADIUS -/
  | radius
  /-- THICK -/
  | thick
  /-- FACTOR -/
  | factor
  /-- BPP_ARG -/
  | bppArg
  /-- COLOR0 -/
  | color0
  /-- COLOR1 -/
  | color1
  /-- IN_LEN -/
  | inLen
  /-- OUT_LEN -/
  | outLen
  /-- RESULT -/
  | result
  /-- CAP_MAX_W -/
  | capMaxW
  /-- CAP_MAX_H -/
  | capMaxH
  /-- CAP_MAX_PIXELS -/
  | capMaxPixels
  /-- CAP_IN -/
  | capIn
  /-- CAP_OUT -/
  | capOut
  /-- HDR_SIGNATURE -/
  | hdrSignature
  /-- HDR_FILE_SIZE -/
  | hdrFileSize
  /-- HDR_RESERVED -/
  | hdrReserved
  /-- HDR_DATA_OFFSET -/
  | hdrDataOffset
  /-- HDR_INFO_SIZE -/
  | hdrInfoSize
  /-- HDR_WIDTH -/
  | hdrWidth
  /-- HDR_HEIGHT -/
  | hdrHeight
  /-- HDR_PLANES -/
  | hdrPlanes
  /-- HDR_BPP -/
  | hdrBpp
  /-- HDR_COMPRESSION -/
  | hdrCompression
  /-- HDR_PIXEL_DATA_SIZE -/
  | hdrPixelDataSize
  /-- HDR_TRAIL0 -/
  | hdrTrail0
  /-- HDR_TRAIL1 -/
  | hdrTrail1
  /-- HDR_TRAIL2 -/
  | hdrTrail2
  /-- HDR_TRAIL3 -/
  | hdrTrail3
deriving DecidableEq, Repr

/-- The offset of a register from REG_BASE. -/
def Reg.offset (r : Reg) : Nat :=
  match r with
  | .cmd => 0x000
  | .status => 0x004
  | .ctrl => 0x008
  | .id => 0x00C
  | .x0 => 0x010
  | .y0 => 0x014
  | .x1 => 0x018
  | .y1 => 0x01C
  | .x2 => 0x020
  | .y2 => 0x024
  | .w => 0x028
  | .h => 0x02C
  | .radius => 0x030
  | .thick => 0x034
  | .factor => 0x038
  | .bppArg => 0x03C
  | .color0 => 0x040
  | .color1 => 0x044
  | .inLen => 0x048
  | .outLen => 0x04C
  | .result => 0x050
  | .capMaxW => 0x060
  | .capMaxH => 0x064
  | .capMaxPixels => 0x068
  | .capIn => 0x06C
  | .capOut => 0x070
  | .hdrSignature => 0x100
  | .hdrFileSize => 0x104
  | .hdrReserved => 0x108
  | .hdrDataOffset => 0x10C
  | .hdrInfoSize => 0x110
  | .hdrWidth => 0x114
  | .hdrHeight => 0x118
  | .hdrPlanes => 0x11C
  | .hdrBpp => 0x120
  | .hdrCompression => 0x124
  | .hdrPixelDataSize => 0x128
  | .hdrTrail0 => 0x12C
  | .hdrTrail1 => 0x130
  | .hdrTrail2 => 0x134
  | .hdrTrail3 => 0x138

/-- Every register, in the order of the offsets. -/
def Reg.all : List Reg :=
  [.cmd, .status, .ctrl, .id, .x0, .y0, .x1, .y1, .x2, .y2, .w, .h, .radius, .thick, .factor,
   .bppArg, .color0, .color1, .inLen, .outLen, .result, .capMaxW, .capMaxH, .capMaxPixels,
   .capIn, .capOut, .hdrSignature, .hdrFileSize, .hdrReserved, .hdrDataOffset, .hdrInfoSize,
   .hdrWidth, .hdrHeight, .hdrPlanes, .hdrBpp, .hdrCompression, .hdrPixelDataSize, .hdrTrail0,
   .hdrTrail1, .hdrTrail2, .hdrTrail3]

/-- The register at an offset among those listed. -/
def regIn (off : Nat) (rs : List Reg) : Option Reg :=
  match rs with
  | [] => none
  | r :: rest => if r.offset = off then some r else regIn off rest

/-- The register at an offset, if the window has one there (R38). -/
def regAt (off : Nat) : Option Reg := regIn off Reg.all

/-- R29: the ASCII bytes 'I', 'B', 'P', 'C' from least to most significant byte. -/
def idValue : Word := 0x43504249

/-- What a host read of a register returns. A read has no side effect (20_memory.md R54); a u16
header field reads as 0 in bits 31:16 (R31). -/
def State.readReg (s : State) (r : Reg) : Word :=
  match r with
  | .cmd => s.cmd
  | .status => s.status.word
  | .ctrl => ctrlWord s.irqEn
  | .id => idValue
  | .x0 => s.args.x0
  | .y0 => s.args.y0
  | .x1 => s.args.x1
  | .y1 => s.args.y1
  | .x2 => s.args.x2
  | .y2 => s.args.y2
  | .w => s.args.w
  | .h => s.args.h
  | .radius => s.args.radius
  | .thick => s.args.thick
  | .factor => s.args.factor
  | .bppArg => s.args.bppArg
  | .color0 => s.args.color0
  | .color1 => s.args.color1
  | .inLen => s.inLen
  | .outLen => s.outLen
  | .result => s.result
  | .capMaxW => trunc32 s.cfg.maxW
  | .capMaxH => trunc32 s.cfg.maxH
  | .capMaxPixels => trunc32 s.cfg.maxPixels
  | .capIn => trunc32 s.cfg.inCap
  | .capOut => trunc32 s.cfg.outCap
  | .hdrSignature => 0#16 ++ s.hdr.signature
  | .hdrFileSize => s.hdr.fileSize
  | .hdrReserved => s.hdr.reserved
  | .hdrDataOffset => s.hdr.dataOffset
  | .hdrInfoSize => s.hdr.infoSize
  | .hdrWidth => s.hdr.width
  | .hdrHeight => s.hdr.height
  | .hdrPlanes => 0#16 ++ s.hdr.planes
  | .hdrBpp => 0#16 ++ s.hdr.bpp
  | .hdrCompression => s.hdr.compression
  | .hdrPixelDataSize => s.hdr.pixelDataSize
  | .hdrTrail0 => s.hdr.trail0
  | .hdrTrail1 => s.hdr.trail1
  | .hdrTrail2 => s.hdr.trail2
  | .hdrTrail3 => s.hdr.trail3

/-- R18: a host write of `v` to an argument register stores all 32 bits, whether or not BUSY is 1. -/
def Args.write (a : Args) (r : Reg) (v : Word) : Args :=
  match r with
  | .x0 => { a with x0 := v }
  | .y0 => { a with y0 := v }
  | .x1 => { a with x1 := v }
  | .y1 => { a with y1 := v }
  | .x2 => { a with x2 := v }
  | .y2 => { a with y2 := v }
  | .w => { a with w := v }
  | .h => { a with h := v }
  | .radius => { a with radius := v }
  | .thick => { a with thick := v }
  | .factor => { a with factor := v }
  | .bppArg => { a with bppArg := v }
  | .color0 => { a with color0 := v }
  | .color1 => { a with color1 := v }
  | .cmd | .status | .ctrl | .id | .inLen | .outLen | .result | .capMaxW | .capMaxH
    | .capMaxPixels | .capIn | .capOut | .hdrSignature | .hdrFileSize | .hdrReserved
    | .hdrDataOffset | .hdrInfoSize | .hdrWidth | .hdrHeight | .hdrPlanes | .hdrBpp
    | .hdrCompression | .hdrPixelDataSize | .hdrTrail0 | .hdrTrail1 | .hdrTrail2
    | .hdrTrail3 => a

/-- R37: IN_LEN is write-any-read-legal: a write of v stores `min(zext_32(v), IN_CAP)`. -/
def clampInLen (p : Params) (v : Word) : Word := trunc32 (min (zext32 v) p.inCap)

/-- What a host write of `v` to a register does: CMD R20, STATUS R21, CTRL R28, IN_LEN R37, the
argument registers R18. Writes to the read-only registers are ignored (R38). -/
def State.writeReg (s : State) (r : Reg) (v : Word) : State :=
  match r with
  | .cmd => s.writeCmd v
  | .status => { s with status := s.status.writeOneToClear v }
  | .ctrl => { s with irqEn := ctrlWrite v }
  | .inLen => { s with inLen := clampInLen s.cfg v }
  | .x0 | .y0 | .x1 | .y1 | .x2 | .y2 | .w | .h | .radius | .thick | .factor | .bppArg
    | .color0 | .color1 => 
      { s with args := s.args.write r v }
  | .id | .outLen | .result | .capMaxW | .capMaxH | .capMaxPixels | .capIn | .capOut
    | .hdrSignature | .hdrFileSize | .hdrReserved | .hdrDataOffset | .hdrInfoSize
    | .hdrWidth | .hdrHeight | .hdrPlanes | .hdrBpp | .hdrCompression | .hdrPixelDataSize
    | .hdrTrail0 | .hdrTrail1 | .hdrTrail2 | .hdrTrail3 => s

end Sys2Proof.Machine
end

