-- ==== Sys2Proof/Machine/Bus.lean ====
section
/-! DEFINITION. The host bus (20_memory.md R43 to R54): the three windows, the conditions of OKAY and
SLVERR, and the effect of one access, which is atomic (R47). -/

namespace Sys2Proof.Machine

open Sys2Proof

/-- R47: n. -/
def Size.bytes (n : Size) : Nat :=
  match n with
  | .one => 1
  | .two => 2
  | .four => 4

/-- R44: the three windows. -/
inductive Window where
  | registers
  | input
  | output
deriving DecidableEq, Repr

/-- R44: the window that the address lies in, and its offset there. An access belongs to the window
that its first byte lies in (log 7); no two windows overlap (R6). -/
def windowAt (p : Params) (a : Nat) : Option (Window × Nat) :=
  if decide (p.regBase ≤ a) && decide (a < p.regBase + Params.regWindow) then
    some (.registers, a - p.regBase)
  else if decide (p.inBase ≤ a) && decide (a < p.inBase + p.inCap) then some (.input, a - p.inBase)
  else if decide (p.outBase ≤ a) && decide (a < p.outBase + p.outCap) then
    some (.output, a - p.outBase)
  else none

/-- R48: n = 4 and a ≡ 0 (mod 4). -/
def regAccessOk (a : Nat) (n : Size) : Bool := n.bytes == 4 && a % 4 == 0

/-- R49: naturally aligned, and wholly inside a window of `cap` bytes in which it starts at `off`. -/
def bufAccessOk (a off cap : Nat) (n : Size) : Bool :=
  a % n.bytes == 0 && decide (off + n.bytes ≤ cap)

/-- R47: OKAY with read data. -/
def Response.okay (d : Word) : Response := { kind := .okay, data := d }

/-- R52: SLVERR, with all-zero data. -/
def Response.slverr : Response := { kind := .slverr, data := 0 }

/-- R45: the n bytes at index `i`, the lowest index in the lowest data bits. -/
def leWord (byte : Nat → Byte) (i : Nat) (n : Size) : Word := trunc32 (leSum byte i n.bytes)

/-- R45: the cells a write of n bytes of `v` stores from index `i` on. -/
def writeCells (i : Nat) (n : Size) (v : Word) : List Host.Cell := leCells i n.bytes (zext32 v)

/-- A read of the register window (R48, R38). -/
def State.readRegisters (s : State) (a off : Nat) (n : Size) : Response :=
  if regAccessOk a n then
    match regAt off with
    | some r => .okay (s.readReg r)
    | none => .okay 0
  else .slverr

/-- A read of the input window (R49, R50, R53). -/
def State.readInput (s : State) (a off : Nat) (n : Size) : Response :=
  if s.status.busy then .slverr
  else if bufAccessOk a off s.cfg.inCap n then .okay (leWord s.inByte off n)
  else .slverr

/-- A read of the output window (R49, R51, R53). -/
def State.readOutput (s : State) (a off : Nat) (n : Size) : Response :=
  if s.status.busy then .slverr
  else if bufAccessOk a off s.cfg.outCap n then .okay (leWord s.outByte off n)
  else .slverr

/-- A write to the register window (R48, R38). -/
def State.writeRegisters (s : State) (a off : Nat) (n : Size) (v : Word) : State × Response :=
  if regAccessOk a n then
    match regAt off with
    | some r => (s.writeReg r v, .okay 0)
    | none => (s, .okay 0)
  else (s, .slverr)

/-- A write to the input window (R49, R50, R53). -/
def State.writeInput (s : State) (a off : Nat) (n : Size) (v : Word) : State × Response :=
  if s.status.busy then (s, .slverr)
  else if bufAccessOk a off s.cfg.inCap n then
    ({ s with inBuf := Memory.writeAll s.inBuf (writeCells off n v) }, .okay 0)
  else (s, .slverr)

/-- R47: one host access: the state after it and the response, `none` where the block does not
respond (R44, U16; log 7). Every write to the output window gets SLVERR (R51). -/
def State.access (s : State) (acc : Access) : State × Option Response :=
  match acc with
  | .read a n =>
    match windowAt s.cfg a.toNat with
    | some (.registers, off) => (s, some (s.readRegisters a.toNat off n))
    | some (.input, off) => (s, some (s.readInput a.toNat off n))
    | some (.output, off) => (s, some (s.readOutput a.toNat off n))
    | none => (s, none)
  | .write a n v =>
    match windowAt s.cfg a.toNat with
    | some (.registers, off) =>
      ((s.writeRegisters a.toNat off n v).1, some (s.writeRegisters a.toNat off n v).2)
    | some (.input, off) =>
      ((s.writeInput a.toNat off n v).1, some (s.writeInput a.toNat off n v).2)
    | some (.output, _) => (s, some .slverr)
    | none => (s, none)

/-- The host address of a register (R44). -/
def regAddr (p : Params) (r : Reg) : Word := trunc32 (p.regBase + r.offset)

/-- The access and the block's answer are noted for the host. -/
def State.busCycle (s : State) (acc : Access) : State :=
  { (s.access acc).1 with busLog := (acc, (s.access acc).2) :: s.busLog }

/-- R68: the read of STATUS that WAIT repeats. -/
def statusRead (p : Params) : Access := .read (regAddr p .status) .four

/-- R68: bit 0 of the value that a read of STATUS gives. -/
def State.pollBusy (s : State) : Bool :=
  match (s.access (statusRead s.cfg)).2 with
  | some r => r.data.getLsbD 0
  | none => false

/-- The host's turn: its next operation. A WAIT makes one read of STATUS and is done when the value
read has BUSY = 0 (R68). With nothing left to do, the host makes no access. -/
def State.hostTurn (s : State) : State :=
  match s.script with
  | [] => s
  | .access a :: rest => { s.busCycle a with script := rest }
  | .wait :: rest =>
    { s.busCycle (statusRead s.cfg) with
      script := if s.pollBusy then HostOp.wait :: rest else rest }
  | .reset :: rest => { s.resetEvent with script := rest }

/-- R130: the bus log holds a read of STATUS that the block answered. -/
def State.hasReadStatus (s : State) : Bool :=
  s.busLog.any fun e => e.1 == statusRead s.cfg && e.2.isSome

/-- R47, R68: the operation makes a bus access; the reset input is none. -/
def HostOp.makesAccess (o : HostOp) : Bool :=
  match o with
  | .access _ => true
  | .wait => true
  | .reset => false

/-- R130: the host has issued its last access: no operation left makes one. -/
def State.lastAccessIssued (s : State) : Bool := s.script.all fun o => !o.makesAccess

/-- R130: the three conditions for the end of a host program: the host has issued its last access,
BUSY = 0 and the host has read STATUS (log 13, 18). -/
def State.programEnded (s : State) : Bool :=
  s.lastAccessIssued && !s.status.busy && s.hasReadStatus

end Sys2Proof.Machine
end

