-- ==== Sys2Proof/Machine/Codec.lean ====
section
/-! DEFINITION. The BMP codec (40_codec.md): the stream layout, the row arithmetic, the sizing
functions, DECODE and ENCODE. -/

namespace Sys2Proof.Machine

open Sys2Proof

/-- R73: the bytes per pixel. -/
def bpp8 (bpp : Nat) : Nat := bpp / 8

/-- R73: the padding bytes of a row. -/
def rowPad (w bpp : Nat) : Nat := if bpp = 24 then (4 - (w * 3) % 4) % 4 else 0

/-- R74: the bytes of a row, padding included. -/
def stride (w bpp : Nat) : Nat := w * bpp8 bpp + rowPad w bpp

/-- R74: the expected pixel-data length of an image. -/
def pixBytes (w h bpp : Nat) : Nat := stride w bpp * h

/-- R75: the stream offset of pixel (x, y). -/
def pixOff (w bpp x y : Nat) : Nat := 54 + y * stride w bpp + x * bpp8 bpp

/-- R79: `trunc_32(w * h * Bpp8(bpp))`. -/
def pixSize (w h bpp : Nat) : Word := trunc32 (w * h * bpp8 bpp)

/-- R79: `trunc_32(54 + PixSize(w, h, bpp))`. -/
def fileBytes (w h bpp : Nat) : Word := trunc32 (54 + (pixSize w h bpp).toNat)

/-- R71: the n-byte header field at stream offset `o`. -/
def State.le (s : State) (o n : Nat) : Nat := leSum s.inByte o n

/-- R70, R80: the fifteen header fields of the stream. -/
def State.parseHeader (s : State) : Header :=
  { signature := BitVec.ofNat 16 (s.le 0 2)
    fileSize := trunc32 (s.le 2 4)
    reserved := trunc32 (s.le 6 4)
    dataOffset := trunc32 (s.le 10 4)
    infoSize := trunc32 (s.le 14 4)
    width := trunc32 (s.le 18 4)
    height := trunc32 (s.le 22 4)
    planes := BitVec.ofNat 16 (s.le 26 2)
    bpp := BitVec.ofNat 16 (s.le 28 2)
    compression := trunc32 (s.le 30 4)
    pixelDataSize := trunc32 (s.le 34 4)
    trail0 := trunc32 (s.le 38 4)
    trail1 := trunc32 (s.le 42 4)
    trail2 := trunc32 (s.le 46 4)
    trail3 := trunc32 (s.le 50 4) }

/-- R77, R78, R80: the pixel whose first stream byte is `o`: B, G, R and, at 32 bpp, A; at 24 bpp
alpha is 255. -/
def State.pixelAt (s : State) (bpp o : Nat) : Color :=
  (if bpp = 32 then s.inByte (o + 3) else 0xFF#8) ++ s.inByte (o + 2) ++ s.inByte (o + 1)
    ++ s.inByte o

/-- R80: the rows of the decoded image. -/
def State.decodedGrid (s : State) (w h bpp : Nat) : Grid :=
  Grid.build w h fun x y => s.pixelAt bpp (pixOff w bpp x y)

/-- R80, the part after the header is read: the checks on it, and the image. -/
def State.decodeBody (s : State) (n : Nat) (hdr : Header) : State :=
  if !depthOk hdr.bpp.toNat then s.raise .fmtUnsupportedDepth
  else if hdr.compression ≠ 0 then s.raise .fmtUnsupportedCompression
  else if overCapacity s.cfg (zext32 hdr.width) (zext32 hdr.height) then s.raise .capacity
  else if n - 54 < pixBytes (zext32 hdr.width) (zext32 hdr.height) hdr.bpp.toNat then
    s.raise .fmtTruncatedPixelData
  else
    (s.putImage hdr (s.decodedGrid (zext32 hdr.width) (zext32 hdr.height) hdr.bpp.toNat)).finish
      .none
      { warnTrail :=
          decide (pixBytes (zext32 hdr.width) (zext32 hdr.height) hdr.bpp.toNat < n - 54)
        warnHdrSize := hdr.infoSize != 40 }

/-- DECODE (R80 to R84). -/
def execDecode (s : State) : Host.Outcome State Fault Refusal :=
  if s.opInLen < 54 then .next (s.raise .fmtShortHeader)
  else if s.inByte 0 ≠ 0x42 ∨ s.inByte 1 ≠ 0x4D then .next (s.raise .fmtBadSignature)
  else .next (s.decodeBody s.opInLen s.parseHeader)

/-- R70, R72, R85: the 54 header bytes. -/
def Header.cells (h : Header) : List Host.Cell :=
  leCells 0 2 h.signature.toNat ++ leCells 2 4 h.fileSize.toNat ++ leCells 6 4 h.reserved.toNat
    ++ leCells 10 4 h.dataOffset.toNat ++ leCells 14 4 h.infoSize.toNat
    ++ leCells 18 4 h.width.toNat ++ leCells 22 4 h.height.toNat ++ leCells 26 2 h.planes.toNat
    ++ leCells 28 2 h.bpp.toNat ++ leCells 30 4 h.compression.toNat
    ++ leCells 34 4 h.pixelDataSize.toNat ++ leCells 38 4 h.trail0.toNat
    ++ leCells 42 4 h.trail1.toNat ++ leCells 46 4 h.trail2.toNat ++ leCells 50 4 h.trail3.toNat

/-- R77, R78, R85: the bytes of a pixel at stream offset `o`; alpha is dropped at 24 bpp. -/
def pixelCells (bpp o : Nat) (c : Color) : List Host.Cell :=
  [(o, c.extractLsb' 0 8), (o + 1, c.extractLsb' 8 8), (o + 2, c.extractLsb' 16 8)]
    ++ (if bpp = 32 then [(o + 3, c.extractLsb' 24 8)] else [])

/-- R85: the pixels of a row from column `x` on. -/
def rowCells (w bpp y x : Nat) (row : List Color) : List Host.Cell :=
  match row with
  | [] => []
  | c :: rest => pixelCells bpp (pixOff w bpp x y) c ++ rowCells w bpp y (x + 1) rest

/-- R78, R85: the padding bytes of row `y`, all 0x00. -/
def padCells (w bpp y : Nat) : List Host.Cell :=
  (List.range (rowPad w bpp)).map fun k => (54 + y * stride w bpp + w * bpp8 bpp + k, 0#8)

/-- R85: the rows from row `y` on, each with its padding. -/
def gridCells (w bpp y : Nat) (g : Grid) : List Host.Cell :=
  match g with
  | [] => []
  | row :: rest => rowCells w bpp y 0 row ++ padCells w bpp y ++ gridCells w bpp (y + 1) rest

/-- R85: every byte ENCODE writes, with its index, in the order of the pseudocode. -/
def State.encodedCells (s : State) : List Host.Cell :=
  s.hdr.cells ++ gridCells s.width s.depth 0 s.pb

/-- R85, R87: the length of the encoded stream. -/
def State.encodedLen (s : State) : Nat := 54 + pixBytes s.width s.height s.depth

/-- ENCODE (R85 to R87). -/
def execEncode (s : State) : Host.Outcome State Fault Refusal :=
  s.needImage (.next ((s.putOutput s.encodedCells (trunc32 s.encodedLen)).finish .none {}))

end Sys2Proof.Machine
end

