-- ==== Sys2Proof/Machine/Buffer.lean ====
section
/-! DEFINITION. Pixel buffer construction and access (41_buffer.md): CONSTRUCT, CONSTRUCT_C and
GET_PIXEL. -/

namespace Sys2Proof.Machine

open Sys2Proof

/-- R90: `ConstructedHeaders(w, h, bpp)`. -/
def constructedHeaders (w h bpp : Nat) : Header :=
  { signature := 0x4D42
    fileSize := fileBytes w h bpp
    reserved := 0
    dataOffset := 54
    infoSize := 40
    width := trunc32 w
    height := trunc32 h
    planes := 1
    bpp := BitVec.ofNat 16 bpp
    compression := 0
    pixelDataSize := pixSize w h bpp
    trail0 := 0
    trail1 := 0
    trail2 := 0
    trail3 := 0 }

/-- CONSTRUCT (R89). -/
def execConstruct (s : State) : Host.Outcome State Fault Refusal :=
  if !depthOk s.opBpp then .next (s.raise .badArg)
  else if overCapacity s.cfg s.opW s.opH then .next (s.raise .capacity)
  else
    .next ((s.putImage (constructedHeaders s.opW s.opH s.opBpp)
      (Grid.filled s.opW s.opH s.opColor0)).finish .none {})

/-- CONSTRUCT_C (R91). -/
def execConstructC (s : State) : Host.Outcome State Fault Refusal :=
  if !depthOk s.opBpp then .next (s.raise .badArg)
  else if overCapacity s.cfg s.opW s.opH then .next (s.raise .capacity)
  else if s.opW = 0 ∨ s.opH = 0 then .next (s.raise .index)
  else
    .next ((s.putImage (constructedHeaders s.opW s.opH s.opBpp)
      (Grid.put (Grid.filled s.opW s.opH s.opColor0) (s.opW / 2) (s.opH / 2) s.opColor1)).finish
      .none {})

/-- GET_PIXEL (R92). A pixel in bounds that PB does not have breaks R32, as in `needImage`
(log 8). -/
def execGetPixel (s : State) : Host.Outcome State Fault Refusal :=
  s.needImage
    (if inBounds s.width s.height s.opX0 s.opY0 then
      match Grid.get? s.pb s.opX0.toNat s.opY0.toNat with
      | some c => .next ((s.putResult c).finish .none {})
      | none => .fault .imageInconsistent
    else .next (s.raise .index))

end Sys2Proof.Machine
end

