-- ==== Sys2Proof/Machine/Circle.lean ====
section
/-! DEFINITION. The midpoint circle engine (44_circle.md): CirclePoints and DRAW_CIRCLE, in exact
integers (R106). -/

namespace Sys2Proof.Machine

open Sys2Proof

/-- R104: the eight symmetric points of an offset. -/
def octants (cx cy x y : Int) : List (Int × Int) :=
  [(cx + x, cy + y), (cx - x, cy + y), (cx + x, cy - y), (cx - x, cy - y),
   (cx + y, cy + x), (cx - y, cy + x), (cx + y, cy - x), (cx - y, cy - x)]

/-- R104: the loop `while y <= x`, for at most `n` rounds. y grows by 1 in each round and x never
grows, so x - y + 1 rounds are enough. The updates are sequential: y first, then x, then d. -/
def circleLoop (cx cy : Int) (n : Nat) (x y d : Int) : List (Int × Int) :=
  match n with
  | 0 => []
  | k + 1 =>
    if y ≤ x then
      octants cx cy x y ++
        (if d ≤ 0 then circleLoop cx cy k x (y + 1) (d + 2 * (y + 1) + 1)
         else circleLoop cx cy k (x - 1) (y + 1) (d + 2 * (y + 1 - (x - 1)) + 1))
    else []

/-- R104: `CirclePoints(cx, cy, r)`. -/
def circlePoints (cx cy r : Int) : List (Int × Int) :=
  circleLoop cx cy (r + 1).toNat r 0 (1 - r)

/-- DRAW_CIRCLE (R105). -/
def execDrawCircle (s : State) : Host.Outcome State Fault Refusal :=
  s.needImage (.next (s.drawPoints s.opColor0 (circlePoints s.opX0 s.opY0 s.opRadius)))

end Sys2Proof.Machine
end

