-- ==== Sys2Proof/Machine/Line.lean ====
section
/-! DEFINITION. The Bresenham line engine (43_line.md): LinePoints and DRAW_LINE, in exact integers
(R103). -/

namespace Sys2Proof.Machine

open Sys2Proof

/-- R100: `steep ? (y, x) : (x, y)`. -/
def unsteep (steep : Bool) (x y : Int) : Int × Int := if steep then (y, x) else (x, y)

/-- R100: the loop body, `n` times from column `x` on, with row `y` and error `err`. -/
def lineLoop (steep : Bool) (dx dy ystep : Int) (n : Nat) (x y err : Int) : List (Int × Int) :=
  match n with
  | 0 => []
  | k + 1 =>
    unsteep steep x y ::
      (if err - dy < 0 then lineLoop steep dx dy ystep k (x + 1) (y + ystep) (err - dy + dx)
       else lineLoop steep dx dy ystep k (x + 1) y (err - dy))

/-- R100 after the two swaps, so with x0 <= x1: x runs from x0 to x1 inclusive. -/
def lineFrom (steep : Bool) (x0 y0 x1 y1 : Int) : List (Int × Int) :=
  lineLoop steep (x1 - x0) ((y1 - y0).natAbs : Int) (if y0 < y1 then 1 else -1)
    ((x1 - x0).toNat + 1) x0 y0 ((x1 - x0) / 2)

/-- R100: the endpoint swap, "swap the endpoints whole". -/
def lineOrdered (steep : Bool) (x0 y0 x1 y1 : Int) : List (Int × Int) :=
  if x0 > x1 then lineFrom steep x1 y1 x0 y0 else lineFrom steep x0 y0 x1 y1

/-- R100: `LinePoints(x0, y0, x1, y1)`. -/
def linePoints (x0 y0 x1 y1 : Int) : List (Int × Int) :=
  if (y1 - y0).natAbs > (x1 - x0).natAbs then lineOrdered true y0 x0 y1 x1
  else lineOrdered false x0 y0 x1 y1

/-- DRAW_LINE (R101). -/
def execDrawLine (s : State) : Host.Outcome State Fault Refusal :=
  s.needImage (.next (s.drawPoints s.opColor0 (linePoints s.opX0 s.opY0 s.opX1 s.opY1)))

end Sys2Proof.Machine
end

