-- ==== Sys2Proof/Machine/PointRect.lean ====
section
/-! DEFINITION. Point and rectangle engines (42_point_rect.md): SET_PIXEL, RECT_OUTLINE and
RECT_FILL. -/

namespace Sys2Proof.Machine

open Sys2Proof

/-- R96: (px, py) lies in the neighbourhood `{(x+i, y+j) : -t <= i <= t, -t <= j <= t}`. -/
def inNeighbourhood (x y : Int) (t : Nat) (px py : Nat) : Bool :=
  decide (x - t ≤ px) && decide ((px : Int) ≤ x + t) && decide (y - t ≤ py)
    && decide ((py : Int) ≤ y + t)

/-- R95: the pixels SET_PIXEL paints: the centre, and with t > 1 the neighbourhood; what lies outside
the image is skipped, since only pixels of the grid are painted. -/
def pointSelects (x y : Int) (t : Nat) (px py : Nat) : Bool :=
  ((px : Int) == x && (py : Int) == y) || (decide (1 < t) && inNeighbourhood x y t px py)

/-- SET_PIXEL (R95, R96). -/
def execSetPixel (s : State) : Host.Outcome State Fault Refusal :=
  s.needImage
    (if inBounds s.width s.height s.opX0 s.opY0 then
      .next ((s.putGrid (Grid.paint s.pb (pointSelects s.opX0 s.opY0 s.opThick) s.opColor0)).finish
        .none {})
    else .next (s.finish .none { clip := true }))

/-- R97: the rectangle covers columns [x0, x0 + w) and rows [y0, y0 + h). -/
def inRect (x0 y0 : Int) (w h : Nat) (px py : Nat) : Bool :=
  decide (x0 ≤ px) && decide ((px : Int) < x0 + w) && decide (y0 ≤ py)
    && decide ((py : Int) < y0 + h)

/-- R98: `x == x0 or x == x0+w-1 or y == y0 or y == y0+h-1`. -/
def onEdge (x0 y0 : Int) (w h : Nat) (px py : Nat) : Bool :=
  (px : Int) == x0 || (px : Int) == x0 + w - 1 || (py : Int) == y0 || (py : Int) == y0 + h - 1

/-- RECT_OUTLINE (R97, R98). -/
def execRectOutline (s : State) : Host.Outcome State Fault Refusal :=
  s.needImage
    (if s.rectOk then
      .next ((s.putGrid (Grid.paint s.pb
        (fun px py => inRect s.opX0 s.opY0 s.opW s.opH px py
          && onEdge s.opX0 s.opY0 s.opW s.opH px py) s.opColor0)).finish .none {})
    else .next (s.raise .index))

/-- RECT_FILL (R97, R99). -/
def execRectFill (s : State) : Host.Outcome State Fault Refusal :=
  s.needImage
    (if s.rectOk then
      .next ((s.putGrid (Grid.paint s.pb (inRect s.opX0 s.opY0 s.opW s.opH) s.opColor0)).finish
        .none {})
    else .next (s.raise .index))

end Sys2Proof.Machine
end

