-- ==== Sys2Proof/Machine/TriangleUpscale.lean ====
section
/-! DEFINITION. The triangle outline and the integer upscaler (45_triangle_upscale.md). -/

namespace Sys2Proof.Machine

open Sys2Proof

/-- R107: the points of the three edges, in the order (v0, v1), (v1, v2), (v2, v0). -/
def trianglePoints (x0 y0 x1 y1 x2 y2 : Int) : List (Int × Int) :=
  linePoints x0 y0 x1 y1 ++ linePoints x1 y1 x2 y2 ++ linePoints x2 y2 x0 y0

/-- DRAW_TRIANGLE (R107). -/
def execDrawTriangle (s : State) : Host.Outcome State Fault Refusal :=
  s.needImage
    (.next (s.drawPoints s.opColor0
      (trianglePoints s.opX0 s.opY0 s.opX1 s.opY1 s.opX2 s.opY2)))

/-- R108: `NB[r][q] <- PB[r / f][q / f]`: each pixel of a row `f` times, each row `f` times (R110). -/
def Grid.upscale (g : Grid) (f : Nat) : Grid :=
  g.flatMap fun row => List.replicate f (row.flatMap fun c => List.replicate f c)

/-- R108, R109: the header registers after an upscale to `nw` columns and `nh` rows: exactly four are
written. -/
def Header.rescaled (h : Header) (nw nh : Nat) : Header :=
  { h with
    width := trunc32 nw
    height := trunc32 nh
    pixelDataSize := pixSize nw nh h.bpp.toNat
    fileSize := fileBytes nw nh h.bpp.toNat }

/-- UPSCALE (R108, R109). -/
def execUpscale (s : State) : Host.Outcome State Fault Refusal :=
  s.needImage
    (if s.opFactor = 0 then .next (s.raise .badArg)
    else if overCapacity s.cfg (s.width * s.opFactor) (s.height * s.opFactor) then
      .next (s.raise .capacity)
    else
      .next ((s.putScaled (s.hdr.rescaled (s.width * s.opFactor) (s.height * s.opFactor))
        (Grid.upscale s.pb s.opFactor)).finish .none {}))

end Sys2Proof.Machine
end

