-- ==== Sys2Proof/Machine/Dispatch.lean ====
section
/-! DEFINITION. One arm per command (30_encoding.md R62, R63): the effect of the latched command on
the state at its engine step (20_memory.md R55). -/

namespace Sys2Proof.Machine

open Sys2Proof

def exec (i : Instr) (s : State) : Host.Outcome State Fault Refusal :=
  match i with
  | .decode => Sys2Proof.Machine.execDecode s
  | .encode => Sys2Proof.Machine.execEncode s
  | .construct => Sys2Proof.Machine.execConstruct s
  | .constructC => Sys2Proof.Machine.execConstructC s
  | .getPixel => Sys2Proof.Machine.execGetPixel s
  | .setPixel => Sys2Proof.Machine.execSetPixel s
  | .drawLine => Sys2Proof.Machine.execDrawLine s
  | .drawCircle => Sys2Proof.Machine.execDrawCircle s
  | .rectOutline => Sys2Proof.Machine.execRectOutline s
  | .rectFill => Sys2Proof.Machine.execRectFill s
  | .drawTriangle => Sys2Proof.Machine.execDrawTriangle s
  | .upscale => Sys2Proof.Machine.execUpscale s

end Sys2Proof.Machine
end

