-- ==== Sys2Proof/Machine/Step.lean ====
section
/-! DEFINITION. One step of the block and its host: one host operation or one engine step
(20_memory.md R55, R56). There is no fetch at a program counter (10_state.md R15): the engine runs
the command word in the latch. -/

namespace Sys2Proof.Machine

open Sys2Proof

/-- R55, R62: the engine step, which exists exactly when BUSY = 1; a turn of the engine in which it
has no step changes nothing. -/
def engineStep (s : State) : Host.Outcome State Fault Refusal :=
  if s.status.busy then
    match decode s.latchedWord with
    | .ok i => exec i s
    | .error _ => execIllegal s
  else .next s

/-- R56: the next step of the one total order of host accesses and engine steps. -/
def step (s : State) : Host.Outcome State Fault Refusal :=
  match s.nextAgent with
  | .engine => engineStep s.takeTurn
  | .host => .next s.takeTurn.hostTurn

/-- The state in which the command word is the one that the very next step runs: an accepted CMD
write of the word (R20), with the engine's turn next (log 10). -/
def State.withFetchWord (s : State) (nbits w : Nat) : State :=
  { s.acceptCmd (tableWord nbits w) with turns := .engine :: s.turns }

end Sys2Proof.Machine
end

