-- ==== Sys2Proof/Machine/Script.lean ====
section
/-! DEFINITION. Command scripts (30_encoding.md R67 to R69): the primitive operations, the
pseudo-instructions with their expansions, and the binary form, which is the list of the host's bus
accesses. A script is the host's, not the block's: it becomes the `script` field of the state. -/

namespace Sys2Proof.Machine

open Sys2Proof

/-- R67: the primitive operations, and WAIT (R68), the one loop. -/
inductive Prim where
  | wr (r : Reg) (v : Int)
  | rd (r : Reg)
  | wrin (index : Nat) (bytes : List Byte)
  | rdout (index n : Nat)
  | cmd (i : Instr)
  | wait
deriving DecidableEq, Repr

/-- R68: the lines of a script. -/
inductive ScriptLine where
  | prim (p : Prim)
  | decode
  | encode
  | construct (w h bpp c0 : Int)
  | constructC (w h bpp c0 c1 : Int)
  | getPixel (x y : Int)
  | setPixel (x y c t : Int)
  | point (x y c : Int)
  | drawLine (x0 y0 x1 y1 c : Int)
  | drawCircle (cx cy r c : Int)
  | rectOutline (x0 y0 w h c : Int)
  | rectFill (x0 y0 w h c : Int)
  | drawTriangle (x0 y0 x1 y1 x2 y2 c : Int)
  | upscale (f : Int)
  | loadIn (bytes : List Byte)
  | clearDone
deriving DecidableEq, Repr

/-- R68, 00_scope.md R12: the operand notation `RGB(b, g, r)`. DESIGN CHOICE (log 19): R68 gives the
channels no range; R68's formula is taken in the integers for any of them, so a channel outside 0 to 255
reaches its neighbours. -/
def rgb (b g r : Int) : Int := 0xFF000000 + r * 2 ^ 16 + g * 2 ^ 8 + b

/-- R68: a command and the wait for it. -/
def cmdWait (i : Instr) : List Prim := [.cmd i, .wait]

/-- R68: the operands of the two rectangle commands. -/
def rectOperands (x0 y0 w h c : Int) : List Prim :=
  [.wr .x0 x0, .wr .y0 y0, .wr .w w, .wr .h h, .wr .color0 c]

/-- R68: the operands of CONSTRUCT. -/
def constructOperands (w h bpp c0 : Int) : List Prim :=
  [.wr .w w, .wr .h h, .wr .bppArg bpp, .wr .color0 c0]

/-- R68: the expansion of `SET_PIXEL x, y, c, t`. -/
def setPixelPrims (x y c t : Int) : List Prim :=
  [.wr .x0 x, .wr .y0 y, .wr .color0 c, .wr .thick t] ++ cmdWait .setPixel

/-- R68: the expansion of a line into primitives, in the order given. DESIGN CHOICE (log 17): LOADIN
with no byte is `WR IN_LEN, 0` alone. -/
def ScriptLine.expand (l : ScriptLine) : List Prim :=
  match l with
  | .prim p => [p]
  | .decode => cmdWait .decode
  | .encode => cmdWait .encode
  | .construct w h bpp c0 => constructOperands w h bpp c0 ++ cmdWait .construct
  | .constructC w h bpp c0 c1 =>
    constructOperands w h bpp c0 ++ [.wr .color1 c1] ++ cmdWait .constructC
  | .getPixel x y => [.wr .x0 x, .wr .y0 y] ++ cmdWait .getPixel ++ [.rd .result]
  | .setPixel x y c t => setPixelPrims x y c t
  | .point x y c => setPixelPrims x y c 0
  | .drawLine x0 y0 x1 y1 c =>
    [.wr .x0 x0, .wr .y0 y0, .wr .x1 x1, .wr .y1 y1, .wr .color0 c] ++ cmdWait .drawLine
  | .drawCircle cx cy r c =>
    [.wr .x0 cx, .wr .y0 cy, .wr .radius r, .wr .color0 c] ++ cmdWait .drawCircle
  | .rectOutline x0 y0 w h c => rectOperands x0 y0 w h c ++ cmdWait .rectOutline
  | .rectFill x0 y0 w h c => rectOperands x0 y0 w h c ++ cmdWait .rectFill
  | .drawTriangle x0 y0 x1 y1 x2 y2 c =>
    [.wr .x0 x0, .wr .y0 y0, .wr .x1 x1, .wr .y1 y1, .wr .x2 x2, .wr .y2 y2, .wr .color0 c]
      ++ cmdWait .drawTriangle
  | .upscale f => [.wr .factor f] ++ cmdWait .upscale
  | .loadIn bytes => [.wrin 0 bytes, .wr .inLen bytes.length]
  | .clearDone => [.wr .status 0x2]

/-- R67, R69: a 32-bit write to a register, the value reduced to 32 bits by two's complement. -/
def regWrite (p : Params) (r : Reg) (v : Int) : HostOp :=
  .access (.write (regAddr p r) .four (BitVec.ofInt 32 v))

/-- R67, R69: byte writes at IN_BASE + i and up. DESIGN CHOICE (log 16): R67 gives the index no range;
the address is reduced to 32 bits. -/
def inWrites (p : Params) (i : Nat) (bytes : List Byte) : List HostOp :=
  match bytes with
  | [] => []
  | b :: rest =>
    .access (.write (trunc32 (p.inBase + i)) .one (b.setWidth 32)) :: inWrites p (i + 1) rest

/-- R69: the bus accesses of a primitive. DESIGN CHOICE (log 16): as in `inWrites`, the address of an
RDOUT byte is reduced to 32 bits. -/
def Prim.hostOps (p : Params) (q : Prim) : List HostOp :=
  match q with
  | .wr r v => [regWrite p r v]
  | .rd r => [.access (.read (regAddr p r) .four)]
  | .wrin i bytes => inWrites p i bytes
  | .rdout i n =>
    (List.range n).map fun k => .access (.read (trunc32 (p.outBase + i + k)) .one)
  | .cmd i => [regWrite p .cmd i.opcode.toNat]
  | .wait => [.wait]

/-- R69: the binary form of a script. -/
def scriptOps (p : Params) (ls : List ScriptLine) : List HostOp :=
  ls.flatMap fun l => l.expand.flatMap (Prim.hostOps p)

end Sys2Proof.Machine
end

