-- ==== Sys2Proof/Machine/ScriptText.lean ====
section
/-! DEFINITION. The text form of a command script (30_encoding.md R67, R68): one operation a line,
`;` starts a comment, a number is decimal with an optional `-`, or `0x` hexadecimal, and
`RGB(b, g, r)` is an operand. The parser rejects what is none of these; the details the rules leave
open (blanks, capitals, where a `-` may stand) are log 9's. -/

namespace Sys2Proof.Machine

open Sys2Proof

/-- Why a line is no line of a script. -/
inductive ScriptError where
  /-- the first word is no operation of R67 or R68 -/
  | unknownOperation
  /-- the operands are not those the operation takes -/
  | badOperands
deriving DecidableEq, Repr

/-- The names of 10_state.md. -/
def regNames : List (String × Reg) :=
  [("CMD", .cmd), ("STATUS", .status), ("CTRL", .ctrl), ("ID", .id), ("X0", .x0), ("Y0", .y0),
   ("X1", .x1), ("Y1", .y1), ("X2", .x2), ("Y2", .y2), ("W", .w), ("H", .h),
   ("RADIUS", .radius), ("THICK", .thick), ("FACTOR", .factor), ("BPP_ARG", .bppArg),
   ("COLOR0", .color0), ("COLOR1", .color1), ("IN_LEN", .inLen), ("OUT_LEN", .outLen),
   ("RESULT", .result), ("CAP_MAX_W", .capMaxW), ("CAP_MAX_H", .capMaxH),
   ("CAP_MAX_PIXELS", .capMaxPixels), ("CAP_IN", .capIn), ("CAP_OUT", .capOut),
   ("HDR_SIGNATURE", .hdrSignature), ("HDR_FILE_SIZE", .hdrFileSize),
   ("HDR_RESERVED", .hdrReserved), ("HDR_DATA_OFFSET", .hdrDataOffset),
   ("HDR_INFO_SIZE", .hdrInfoSize), ("HDR_WIDTH", .hdrWidth), ("HDR_HEIGHT", .hdrHeight),
   ("HDR_PLANES", .hdrPlanes), ("HDR_BPP", .hdrBpp), ("HDR_COMPRESSION", .hdrCompression),
   ("HDR_PIXEL_DATA_SIZE", .hdrPixelDataSize), ("HDR_TRAIL0", .hdrTrail0),
   ("HDR_TRAIL1", .hdrTrail1), ("HDR_TRAIL2", .hdrTrail2), ("HDR_TRAIL3", .hdrTrail3)]

/-- The mnemonics of R63. -/
def instrNames : List (String × Instr) :=
  [("DECODE", .decode), ("ENCODE", .encode), ("CONSTRUCT", .construct),
   ("CONSTRUCT_C", .constructC), ("GET_PIXEL", .getPixel), ("SET_PIXEL", .setPixel),
   ("DRAW_LINE", .drawLine), ("DRAW_CIRCLE", .drawCircle), ("RECT_OUTLINE", .rectOutline),
   ("RECT_FILL", .rectFill), ("DRAW_TRIANGLE", .drawTriangle), ("UPSCALE", .upscale)]

/-- The entry of a name in a list of names. -/
def findName {α : Type} (w : List Char) (names : List (String × α)) : Option α :=
  match names with
  | [] => none
  | (n, a) :: rest => if n.toList = w then some a else findName w rest

/-- R67: what stands before the comment. -/
def stripComment (l : List Char) : List Char :=
  match l with
  | [] => []
  | c :: rest => if c = ';' then [] else c :: stripComment rest

/-- Blank space inside a line. -/
def isBlank (c : Char) : Bool := c == ' ' || c == '\t' || c == '\r'

/-- Commas and parentheses are words of their own. -/
def isPunct (c : Char) : Bool := c == ',' || c == '(' || c == ')'

/-- A word of the line, read so far in reverse, put before the words that follow. -/
def closeWord (w : List Char) (ws : List (List Char)) : List (List Char) :=
  if w.isEmpty then ws else w.reverse :: ws

/-- The words of a line; `w` is the word being read, in reverse. -/
def wordsOf (w : List Char) (l : List Char) : List (List Char) :=
  match l with
  | [] => closeWord w []
  | c :: rest =>
    if isBlank c then closeWord w (wordsOf [] rest)
    else if isPunct c then closeWord w ([c] :: wordsOf [] rest)
    else wordsOf (c :: w) rest

/-- A decimal digit. -/
def decDigit (c : Char) : Option Nat :=
  if decide ('0' ≤ c) && decide (c ≤ '9') then some (c.toNat - 48) else none

/-- A hexadecimal digit. DESIGN CHOICE (log 9): R67 does not give the letters' case; both are read. -/
def hexDigit (c : Char) : Option Nat :=
  if decide ('0' ≤ c) && decide (c ≤ '9') then some (c.toNat - 48)
  else if decide ('a' ≤ c) && decide (c ≤ 'f') then some (c.toNat - 87)
  else if decide ('A' ≤ c) && decide (c ≤ 'F') then some (c.toNat - 55)
  else none

/-- Digits in a base, after the value read so far. -/
def digitsFrom (base : Nat) (digit : Char → Option Nat) (v : Nat) (l : List Char) : Option Nat :=
  match l with
  | [] => some v
  | c :: rest =>
    match digit c with
    | some d => digitsFrom base digit (v * base + d) rest
    | none => none

/-- R67: at least one digit. -/
def digits (base : Nat) (digit : Char → Option Nat) (l : List Char) : Option Nat :=
  if l.isEmpty then none else digitsFrom base digit 0 l

/-- R67: a number is decimal, with an optional `-`, or `0x` hexadecimal. DESIGN CHOICE (log 9): the `x`
is lower case, as R67 writes it, and `-` stands before decimal digits only. -/
def number (w : List Char) : Option Int :=
  match w with
  | '0' :: 'x' :: rest => (digits 16 hexDigit rest).map Int.ofNat
  | '-' :: rest => (digits 10 decDigit rest).map fun n => -(Int.ofNat n)
  | l => (digits 10 decDigit l).map Int.ofNat

/-- One operand, a number or `RGB(b, g, r)`, and the words after it. DESIGN CHOICE (log 19): a channel
may be any number, and `RGB` may stand wherever an operand may. -/
def operand (ws : List (List Char)) : Option (Int × List (List Char)) :=
  match ws with
  | ['R', 'G', 'B'] :: ['('] :: b :: [','] :: g :: [','] :: r :: [')'] :: rest =>
    match number b, number g, number r with
    | some b, some g, some r => some (rgb b g r, rest)
    | _, _, _ => none
  | w :: rest => (number w).map fun v => (v, rest)
  | [] => none

/-- Operands separated by commas, at most `n` of them, to the end of the line. -/
def operandsFrom (n : Nat) (ws : List (List Char)) : Option (List Int) :=
  match n with
  | 0 => none
  | k + 1 =>
    match operand ws with
    | some (v, []) => some [v]
    | some (v, [','] :: rest) => (operandsFrom k rest).map fun vs => v :: vs
    | _ => none

/-- The operands of a line: none, or a list separated by commas. -/
def operands (ws : List (List Char)) : Option (List Int) :=
  if ws.isEmpty then some [] else operandsFrom ws.length ws

/-- R67: a stream byte is given as a number; its low eight bits are taken (log 15). -/
def toBytes (vs : List Int) : List Byte := vs.map fun v => BitVec.ofInt 8 v

/-- R67: `WR <reg>, <value>`. -/
def parseWr (ws : List (List Char)) : Option Prim :=
  match ws with
  | r :: [','] :: rest =>
    match findName r regNames, operands rest with
    | some r, some [v] => some (.wr r v)
    | _, _ => none
  | _ => none

/-- R67: the primitive operations, by their first word; `none` where the word is none of theirs.
DESIGN CHOICE (log 15, 17): a negative index or count does not read; a count of 0 does. -/
def parsePrim (op : List Char) (ws : List (List Char)) : Option (Option Prim) :=
  if op = "WR".toList then some (parseWr ws)
  else if op = "RD".toList then
    some (match ws with
      | [r] => (findName r regNames).map Prim.rd
      | _ => none)
  else if op = "CMD".toList then
    some (match ws with
      | [m] => (findName m instrNames).map Prim.cmd
      | _ => none)
  else if op = "WRIN".toList then
    some (match operands ws with
      | some (i :: b :: bs) => if 0 ≤ i then some (.wrin i.toNat (toBytes (b :: bs))) else none
      | _ => none)
  else if op = "RDOUT".toList then
    some (match operands ws with
      | some [i, n] => if 0 ≤ i ∧ 0 ≤ n then some (.rdout i.toNat n.toNat) else none
      | _ => none)
  else if op = "WAIT".toList then some (if ws.isEmpty then some .wait else none)
  else none

/-- R68: the pseudo-instructions, from the name and the operand values; the outer `none` is an
unknown name. DESIGN CHOICE (log 17): LOADIN takes any number of bytes, none among them. -/
def parsePseudo (op : List Char) (vs : List Int) : Option (Option ScriptLine) :=
  if op = "DECODE".toList then some (match vs with | [] => some .decode | _ => none)
  else if op = "ENCODE".toList then some (match vs with | [] => some .encode | _ => none)
  else if op = "CONSTRUCT".toList then
    some (match vs with | [w, h, bpp, c0] => some (.construct w h bpp c0) | _ => none)
  else if op = "CONSTRUCT_C".toList then
    some (match vs with | [w, h, bpp, c0, c1] => some (.constructC w h bpp c0 c1) | _ => none)
  else if op = "GET_PIXEL".toList then
    some (match vs with | [x, y] => some (.getPixel x y) | _ => none)
  else if op = "SET_PIXEL".toList then
    some (match vs with | [x, y, c, t] => some (.setPixel x y c t) | _ => none)
  else if op = "POINT".toList then
    some (match vs with | [x, y, c] => some (.point x y c) | _ => none)
  else if op = "DRAW_LINE".toList then
    some (match vs with | [a, b, d, e, c] => some (.drawLine a b d e c) | _ => none)
  else if op = "DRAW_CIRCLE".toList then
    some (match vs with | [x, y, r, c] => some (.drawCircle x y r c) | _ => none)
  else if op = "RECT_OUTLINE".toList then
    some (match vs with | [x, y, w, h, c] => some (.rectOutline x y w h c) | _ => none)
  else if op = "RECT_FILL".toList then
    some (match vs with | [x, y, w, h, c] => some (.rectFill x y w h c) | _ => none)
  else if op = "DRAW_TRIANGLE".toList then
    some (match vs with
      | [x0, y0, x1, y1, x2, y2, c] => some (.drawTriangle x0 y0 x1 y1 x2 y2 c)
      | _ => none)
  else if op = "UPSCALE".toList then some (match vs with | [f] => some (.upscale f) | _ => none)
  else if op = "LOADIN".toList then some (some (.loadIn (toBytes vs)))
  else if op = "CLEARDONE".toList then some (match vs with | [] => some .clearDone | _ => none)
  else none

/-- An operand list that does not read gives no values, and a name's `none` is kept apart from it. -/
def parseOp (op : List Char) (ws : List (List Char)) : Except ScriptError ScriptLine :=
  match parsePrim op ws with
  | some (some p) => .ok (.prim p)
  | some none => .error .badOperands
  | none =>
    match operands ws with
    | some vs =>
      match parsePseudo op vs with
      | some (some l) => .ok l
      | some none => .error .badOperands
      | none => .error .unknownOperation
    | none =>
      match parsePseudo op [] with
      | some _ => .error .badOperands
      | none => .error .unknownOperation

/-- R67: one line; an empty line or a comment alone is no operation. -/
def parseLine (l : List Char) : Except ScriptError (Option ScriptLine) :=
  match wordsOf [] (stripComment l) with
  | [] => .ok none
  | op :: ws =>
    match parseOp op ws with
    | .ok x => .ok (some x)
    | .error e => .error e

/-- R67: the lines of a text; `cur` is the line being read, in reverse. -/
def linesOf (cur : List Char) (l : List Char) : List (List Char) :=
  match l with
  | [] => [cur.reverse]
  | c :: rest => if c = '\n' then cur.reverse :: linesOf [] rest else linesOf (c :: cur) rest

/-- R67: a script is a list of lines; the first line that is none is the error. -/
def parseLines (ls : List (List Char)) : Except ScriptError (List ScriptLine) :=
  match ls with
  | [] => .ok []
  | l :: rest =>
    match parseLine l, parseLines rest with
    | .ok (some x), .ok xs => .ok (x :: xs)
    | .ok none, .ok xs => .ok xs
    | .error e, _ => .error e
    | .ok _, .error e => .error e

/-- R67: the script of a text. -/
def parseScript (t : String) : Except ScriptError (List ScriptLine) :=
  parseLines (linesOf [] t.toList)

end Sys2Proof.Machine
end

