-- ==== Sys2Proof/Safety.lean ====
section
/-! DEFINITION. What a good state of the machine is, and what one command may change, in the terms
the statements use. -/

namespace Sys2Proof

/-- R63: the commands whose "needs image" column says yes. -/
def Instr.NeedsImage (i : Instr) : Prop := i ≠ .decode ∧ i ≠ .construct ∧ i ≠ .constructC

/-- R63, R101, R105, R107, R95: the commands that plot. -/
def Instr.Plots (i : Instr) : Prop :=
  i = .setPixel ∨ i = .drawLine ∨ i = .drawCircle ∨ i = .drawTriangle

/-- R39: the commands that may write PB. -/
def Instr.WritesGrid (i : Instr) : Prop := i ≠ .encode ∧ i ≠ .getPixel

/-- R39: the commands that may write HDR_*. -/
def Instr.WritesHeader (i : Instr) : Prop :=
  i = .decode ∨ i = .construct ∨ i = .constructC ∨ i = .upscale

/-- R39: the commands that may write VALID. -/
def Instr.WritesValid (i : Instr) : Prop := i = .decode ∨ i = .construct ∨ i = .constructC

end Sys2Proof

namespace Sys2Proof.Machine

open Sys2Proof

/-- 10_state.md R32: the invariants of the header registers and PB. -/
def State.imageInv (s : State) : Bool := if s.status.valid then s.imageOk else s.imageAbsent

/-- 60_exceptions.md R116: flags are set only with ERR = NONE, and CLIP and WARN_* never together;
10_state.md R20: while BUSY = 1 no flag is set and ERR is NONE. -/
def Status.flagsInv (t : Status) : Bool :=
  let anyWarn := t.warnTrail || t.warnHdrSize
  let anyFlag := t.clip || anyWarn
  (!anyFlag || t.err == .none) && !(t.clip && anyWarn) && (!t.busy || (!anyFlag && t.err == .none))

/-- The invariant every step keeps. -/
structure Inv (s : State) : Prop where
  /-- R6: the parameters meet their constraints -/
  cfg : s.cfg.wf = true
  /-- R32 -/
  image : s.imageInv = true
  /-- R116, R20 -/
  flags : s.status.flagsInv = true
  /-- R37: IN_LEN is at most IN_CAP -/
  inLen : s.inLen.toNat ≤ s.cfg.inCap
  /-- R19, R37: so is its latched copy while a command runs; with BUSY = 0 the latch is never read
  and nothing is said of it (U9, log 3) -/
  latchLen : s.status.busy = true → s.latch.inLen.toNat ≤ s.cfg.inCap
  /-- R36, R87: OUT_LEN is at most OUT_CAP -/
  outLen : s.outLen.toNat ≤ s.cfg.outCap
  /-- R40: IN_BUF is in canonical form and holds no byte past IN_CAP -/
  inBuf : Memory.wf s.inBuf = true ∧ Memory.below s.inBuf s.cfg.inCap = true
  /-- R41: OUT_BUF is in canonical form and holds no byte past OUT_CAP -/
  outBuf : Memory.wf s.outBuf = true ∧ Memory.below s.outBuf s.cfg.outCap = true

/-- 10_state.md R39, the rows no command writes: the argument registers, CMD, CTRL, IN_LEN, IN_BUF,
CMD_LOST, the latch; with them the parameters, the draw counter and the host's side. -/
structure KeptByCommands (s t : State) : Prop where
  cfg : t.cfg = s.cfg
  draws : t.draws = s.draws
  args : t.args = s.args
  cmd : t.cmd = s.cmd
  irqEn : t.irqEn = s.irqEn
  inLen : t.inLen = s.inLen
  inByte : ∀ i, t.inByte i = s.inByte i
  cmdLost : t.status.cmdLost = s.status.cmdLost
  latch : t.latch = s.latch
  script : t.script = s.script
  turns : t.turns = s.turns
  busLog : t.busLog = s.busLog

/-- The rows of R39 that make up the image: HDR_*, PB and VALID. -/
structure SameImage (s t : State) : Prop where
  hdr : t.hdr = s.hdr
  pb : t.pb = s.pb
  valid : t.status.valid = s.status.valid

/-- The rows of R39 that hold results outside the image: RESULT, OUT_LEN and every byte of
OUT_BUF. -/
structure SameResults (s t : State) : Prop where
  result : t.result = s.result
  outLen : t.outLen = s.outLen
  outByte : ∀ i, t.outByte i = s.outByte i

/-- 60_exceptions.md R112: the command has completed with this code and these flags. -/
structure Completed (t : State) (e : ResultCode) (f : ResultFlags) : Prop where
  err : t.status.err = e
  clip : t.status.clip = f.clip
  warnTrail : t.status.warnTrail = f.warnTrail
  warnHdrSize : t.status.warnHdrSize = f.warnHdrSize
  busy : t.status.busy = false
  done : t.status.done = true

/-- R32: the block holds an image, and the header registers and PB agree. -/
structure HasImage (s : State) : Prop where
  valid : s.status.valid = true
  consistent : s.imageOk = true

/-- R11: the point lies in the image. -/
def State.Inside (s : State) (x y : Int) : Prop := 0 ≤ x ∧ x < s.width ∧ 0 ≤ y ∧ y < s.height

/-- What a drawing command does (42_point_rect.md R94, R113): exactly the pixels of the image that
`sel` names hold the colour c0, every other pixel is as before, CLIP is set exactly when `clip`, the
command completes with NONE, and nothing else changes. -/
structure Drawn (s t : State) (sel : Int → Int → Prop) (clip : Prop) : Prop where
  shape : Grid.hasShape t.pb s.width s.height = true
  painted : ∀ x y : Nat, s.Inside x y → sel x y → Grid.get? t.pb x y = some s.latch.args.color0
  others : ∀ x y : Nat, ¬(s.Inside x y ∧ sel x y) → Grid.get? t.pb x y = Grid.get? s.pb x y
  clipped : t.status.clip = true ↔ clip
  err : t.status.err = .none
  warnTrail : t.status.warnTrail = false
  warnHdrSize : t.status.warnHdrSize = false
  busy : t.status.busy = false
  done : t.status.done = true
  valid : t.status.valid = s.status.valid
  hdr : t.hdr = s.hdr
  results : SameResults s t
  kept : KeptByCommands s t

/-- 40_codec.md R71 written out for two bytes. -/
def State.u16At (s : State) (o : Nat) : Nat := (s.inByte o).toNat + 2 ^ 8 * (s.inByte (o + 1)).toNat

/-- R71 written out for four bytes. -/
def State.u32At (s : State) (o : Nat) : Nat :=
  (s.inByte o).toNat + 2 ^ 8 * (s.inByte (o + 1)).toNat + 2 ^ 16 * (s.inByte (o + 2)).toNat
    + 2 ^ 24 * (s.inByte (o + 3)).toNat

/-- R73, R74: the bytes of an encoded row: 3w and w mod 4 of padding at 24 bpp, 4w at 32 bpp. -/
def rowBytes (w bpp : Nat) : Nat := if bpp = 24 then 3 * w + w % 4 else 4 * w

/-- R70: the fifteen fields of the stream in IN_BUF, at their offsets. -/
structure HeaderOfStream (s : State) (h : Header) : Prop where
  signature : h.signature.toNat = s.u16At 0
  fileSize : h.fileSize.toNat = s.u32At 2
  reserved : h.reserved.toNat = s.u32At 6
  dataOffset : h.dataOffset.toNat = s.u32At 10
  infoSize : h.infoSize.toNat = s.u32At 14
  width : h.width.toNat = s.u32At 18
  height : h.height.toNat = s.u32At 22
  planes : h.planes.toNat = s.u16At 26
  bpp : h.bpp.toNat = s.u16At 28
  compression : h.compression.toNat = s.u32At 30
  pixelDataSize : h.pixelDataSize.toNat = s.u32At 34
  trail0 : h.trail0.toNat = s.u32At 38
  trail1 : h.trail1.toNat = s.u32At 42
  trail2 : h.trail2.toNat = s.u32At 46
  trail3 : h.trail3.toNat = s.u32At 50

/-- R72: the n-byte little-endian field of value `v` stands at offset `o`. -/
def FieldAt (byte : Nat → Byte) (o n v : Nat) : Prop :=
  ∀ k < n, (byte (o + k)).toNat = v / 2 ^ (8 * k) % 256

/-- R70, R72: the fifteen header registers stand at their offsets of the stream. -/
structure HeaderAt (byte : Nat → Byte) (h : Header) : Prop where
  signature : FieldAt byte 0 2 h.signature.toNat
  fileSize : FieldAt byte 2 4 h.fileSize.toNat
  reserved : FieldAt byte 6 4 h.reserved.toNat
  dataOffset : FieldAt byte 10 4 h.dataOffset.toNat
  infoSize : FieldAt byte 14 4 h.infoSize.toNat
  width : FieldAt byte 18 4 h.width.toNat
  height : FieldAt byte 22 4 h.height.toNat
  planes : FieldAt byte 26 2 h.planes.toNat
  bpp : FieldAt byte 28 2 h.bpp.toNat
  compression : FieldAt byte 30 4 h.compression.toNat
  pixelDataSize : FieldAt byte 34 4 h.pixelDataSize.toNat
  trail0 : FieldAt byte 38 4 h.trail0.toNat
  trail1 : FieldAt byte 42 4 h.trail1.toNat
  trail2 : FieldAt byte 46 4 h.trail2.toNat
  trail3 : FieldAt byte 50 4 h.trail3.toNat

/-- R77, R78: the pixel's bytes B, G, R (and A at 32 bpp) stand at offset `o`. -/
def PixelAt (byte : Nat → Byte) (bpp o : Nat) (c : Color) : Prop :=
  byte o = c.extractLsb' 0 8 ∧ byte (o + 1) = c.extractLsb' 8 8 ∧ byte (o + 2) = c.extractLsb' 16 8
    ∧ (bpp = 32 → byte (o + 3) = c.extractLsb' 24 8)

/-- 41_buffer.md R90: the headers of a constructed image. -/
structure IsConstructed (h : Header) (w ht depth : Nat) : Prop where
  signature : h.signature = 0x4D42
  fileSize : h.fileSize.toNat = 54 + w * ht * (depth / 8)
  reserved : h.reserved = 0
  dataOffset : h.dataOffset = 54
  infoSize : h.infoSize = 40
  width : h.width.toNat = w
  height : h.height.toNat = ht
  planes : h.planes = 1
  bpp : h.bpp.toNat = depth
  compression : h.compression = 0
  pixelDataSize : h.pixelDataSize.toNat = w * ht * (depth / 8)
  trail0 : h.trail0 = 0
  trail1 : h.trail1 = 0
  trail2 : h.trail2 = 0
  trail3 : h.trail3 = 0

/-- 45_triangle_upscale.md R109: exactly four header registers are written, with these values. -/
structure IsRescaled (h h' : Header) (nw nh bpp : Nat) : Prop where
  width : h'.width.toNat = nw
  height : h'.height.toNat = nh
  pixelDataSize : h'.pixelDataSize.toNat = nw * nh * (bpp / 8)
  fileSize : h'.fileSize.toNat = 54 + nw * nh * (bpp / 8)
  rest : { h' with
    width := h.width, height := h.height, pixelDataSize := h.pixelDataSize,
    fileSize := h.fileSize } = h

/-- R89, R80: what a command that commits a whole new image does. -/
structure NewImage (s t : State) (w h : Nat) (px : Nat → Nat → Color) (f : ResultFlags) : Prop where
  valid : t.status.valid = true
  shape : Grid.hasShape t.pb w h = true
  pixels : ∀ x y, x < w → y < h → Grid.get? t.pb x y = some (px x y)
  completed : Completed t .none f
  results : SameResults s t
  kept : KeptByCommands s t

/-- The host's next operation is a 4-byte write of `v` to the register `r`. -/
def State.HostWrites (s : State) (r : Reg) (v : Word) : Prop :=
  s.nextAgent = .host ∧
    ∃ a rest, s.script = .access (.write a .four v) :: rest ∧ a.toNat = s.cfg.regBase + r.offset

/-- The next step is the reset. -/
def State.HostResets (s : State) : Prop := s.nextAgent = .host ∧ ∃ rest, s.script = .reset :: rest

/-- The next step is an engine step that runs command `i` (R55). -/
def State.EngineRuns (s : State) (i : Instr) : Prop :=
  s.nextAgent = .engine ∧ s.status.busy = true ∧ decode s.latch.cmd = .ok i

end Sys2Proof.Machine
end

