-- ==== Sys2Proof/Certificates/Slice0/Obligations.lean ====
section
/-! DEFINITION. The statements for the provers. Each docstring names the rule of spec/ it formalises;
the tiers, titles and cites stand in OBLIGATIONS.json. -/

open Sys2Proof Sys2Proof.Machine

/-! ### Encoding -/

/-- R61, R63: the word, and the four bytes, of every command decode to that command, whatever bytes
follow. -/
def Obligations.EncodedCommandsDecode : Prop :=
  ∀ (i : Instr) (rest : List Byte),
    decode (encode i) = .ok i ∧ decodeBytes (encodeBytes i ++ rest) = .ok (i, rest)

/-- R62, R63: no word but a command's own decodes to it, so no two commands share a word. -/
def Obligations.DecodeReadsOnlyTheCommandsOwnWord : Prop :=
  ∀ (v : Word) (i : Instr), decode v = .ok i ↔ v = encode i

/-- R65: the decoder, written from R63's table, accepts exactly the words that R65's list of illegal
words leaves. -/
def Obligations.DecoderAcceptsExactlyTheWellFormedWords : Prop :=
  ∀ v : Word, (∃ i, decode v = .ok i) ↔ (splitWord v).wf = true

/-- R63, and 95_test_vectors.md section 2.7: some words and what they are. -/
def Obligations.SpecWordsDecode : Prop :=
  decodeTableWord 32 0x01 = some .decode ∧ decodeTableWord 32 0x04 = some .constructC ∧
  decodeTableWord 32 0x10 = some .setPixel ∧ decodeTableWord 32 0x15 = some .drawTriangle ∧
  decodeTableWord 32 0x20 = some .upscale ∧
  decode 0x00000000 = .error .unassignedOpcode ∧ decode 0x00000101 = .error .reservedBits ∧
  decode 0x00000006 = .error .unassignedOpcode ∧ decode 0x00000016 = .error .unassignedOpcode ∧
  decode 0x000000FF = .error .unassignedOpcode ∧ decode 0x80000020 = .error .reservedBits

/-- R62: the engine step decodes the latched word, and is total: a word with bits 31:8 not 0, or with
an OPC that is in no row, raises ILLEGAL_CMD; else the rule of that row runs. -/
def Obligations.EngineStepDecodesTheLatchedWord : Prop :=
  ∀ s : State, s.status.busy = true →
    (s.latch.cmd.extractLsb' 8 24 ≠ 0 → engineStep s = .next (s.raise .illegalCmd)) ∧
    ((∀ i : Instr, s.latch.cmd.extractLsb' 0 8 ≠ i.opcode) →
      engineStep s = .next (s.raise .illegalCmd)) ∧
    (∀ i : Instr, s.latch.cmd.extractLsb' 8 24 = 0 → s.latch.cmd.extractLsb' 0 8 = i.opcode →
      engineStep s = exec i s)

/-- R65: an illegal word is still accepted by the CMD write; the engine step completes it with ERR =
ILLEGAL_CMD and changes no image state. -/
def Obligations.IllegalWordCompletesWithoutEffect : Prop :=
  ∀ (s : State) (v : Word), s.cfg.wf = true → s.status.busy = false → (splitWord v).wf = false →
    ∃ u t, s.access (.write (regAddr s.cfg .cmd) .four v) = (u, some (.okay 0)) ∧
      u.cmd = v ∧ u.status.busy = true ∧ engineStep u = .next t ∧
      Completed t .illegalCmd {} ∧ SameImage s t ∧ SameResults s t ∧ KeptByCommands u t

/-! ### One step -/

/-- R55, R56: when the engine moves next and the latched word decodes to `i`, the step is `exec i`
with the turn spent. -/
def Obligations.StepRunsTheDecodedCommand : Prop :=
  ∀ (s : State) (i : Instr), s.EngineRuns i → step s = exec i { s with turns := s.turns.tail }

/-- Log 10 (the model's choice): the word placed by withFetchWord is the command that the very next
step runs, on the state right after the accepted CMD write. -/
def Obligations.FetchedWordRunsNext : Prop :=
  ∀ (s : State) (i : Instr),
    step (s.withFetchWord 32 (encode i).toNat) = exec i (s.acceptCmd (encode i))

/-- R47, R56: when the host moves next, the step is one whole access, noted with its response. -/
def Obligations.HostTurnIsOneAccess : Prop :=
  ∀ (s : State) (a : Access) (rest : List HostOp), s.nextAgent = .host →
    s.script = .access a :: rest →
    step s = .next { (s.takeTurn.access a).1 with
      script := rest, busLog := (a, (s.takeTurn.access a).2) :: s.busLog }

/-- R55: "The engine has a step exactly when STATUS.BUSY = 1": with BUSY = 0 its turn changes
nothing (log 5). -/
def Obligations.IdleEngineChangesNothing : Prop :=
  ∀ s : State, s.nextAgent = .engine → s.status.busy = false →
    step s = .next { s with turns := s.turns.tail }

/-- R68: WAIT repeats `RD STATUS` until the value read has BUSY = 0; each round is one read, which
changes nothing in the block. That the round spends a turn (log 5), that WAIT stands in or leaves
`script`, and that `busLog` notes the read (log 6) are the model's choices. -/
def Obligations.WaitReadsStatusUntilIdle : Prop :=
  ∀ (s : State) (rest : List HostOp), s.cfg.wf = true → s.nextAgent = .host →
    s.script = .wait :: rest →
    step s = .next { s with
      turns := s.turns.tail
      script := if s.status.busy then .wait :: rest else rest
      busLog := (.read (regAddr s.cfg .status) .four, some (.okay s.status.word)) :: s.busLog }

/-! ### The invariant -/

/-- R124, R32: the state right after reset meets the invariant, whatever the parameters are. -/
def Obligations.ResetMeetsTheInvariant : Prop := Inv State.reset

/-- R32, R37, R116 and the canonical form of the buffers: every step keeps the invariant, from every
state that meets it. -/
def Obligations.EveryStepKeepsTheInvariant : Prop :=
  ∀ s t : State, Inv s → step s = .next t → Inv t

/-- R112, R118, U6: the machine never stops: from every state that meets the invariant, the step
answers a next state. -/
def Obligations.StepNeverStops : Prop := ∀ s : State, Inv s → ∃ t, step s = .next t

/-- R129: weak fairness. `turns` is a finite list, so a running command completes, or is reset away,
within one step more than it holds. -/
def Obligations.BusyClearsWithinTheFixedTurns : Prop :=
  ∀ s : State, Inv s →
    ∃ k t, k ≤ s.turns.length + 1 ∧ Sys2Proof.core.run k s = .next t ∧ t.status.busy = false

/-! ### Whole-machine rules -/

/-- R24: VALID goes from 0 to 1 only by a successful DECODE, CONSTRUCT or CONSTRUCT_C, and from 1 to
0 only at reset. -/
def Obligations.ValidChangesOnlyByConstructionOrReset : Prop :=
  ∀ s t : State, step s = .next t → t.status.valid ≠ s.status.valid →
    (t.status.valid = true ∧ t.status.err = .none ∧ ∃ i, s.EngineRuns i ∧ i.WritesValid) ∨
    (t.status.valid = false ∧ s.HostResets)

/-- R22: BUSY is set only by an accepted CMD write and cleared only by completion or by reset, and
while it is 1 the buffer windows refuse the host. -/
def Obligations.BusySetOnlyByAcceptedCommand : Prop :=
  ∀ s : State,
    (∀ t, step s = .next t → s.status.busy = false → t.status.busy = true →
      ∃ v, s.HostWrites .cmd v) ∧
    (∀ t, step s = .next t → s.status.busy = true → t.status.busy = false →
      s.nextAgent = .engine ∨ s.HostResets) ∧
    (s.status.busy = true → ∀ (a : Access) (addr : Word) (w : Window) (off : Nat),
      (∃ n, a = .read addr n) ∨ (∃ n v, a = .write addr n v) →
      windowAt s.cfg addr.toNat = some (w, off) → w ≠ .registers →
      s.access a = (s, some .slverr))

/-- R23: DONE is set at every completion, whatever the code, and stays until the host writes 1 to bit
1 of STATUS, or until reset. -/
def Obligations.DoneIsStickyUntilCleared : Prop :=
  ∀ s t : State, step s = .next t →
    (s.nextAgent = .engine → s.status.busy = true → t.status.done = true) ∧
    (s.status.done = true → t.status.done = false →
      s.HostResets ∨ ∃ v, s.HostWrites .status v ∧ v.getLsbD 1 = true)

/-- R27: CMD_LOST is set by a CMD write while BUSY = 1, and only so; it is cleared only by a W1C
write or by reset. -/
def Obligations.CmdLostIsStickyUntilCleared : Prop :=
  ∀ s t : State, s.cfg.wf = true → step s = .next t →
    (∀ v, s.HostWrites .cmd v → s.status.busy = true → t.status.cmdLost = true) ∧
    (s.status.cmdLost = false → t.status.cmdLost = true →
      s.status.busy = true ∧ ∃ v, s.HostWrites .cmd v) ∧
    (s.status.cmdLost = true → t.status.cmdLost = false →
      s.HostResets ∨ ∃ v, s.HostWrites .status v ∧ v.getLsbD 6 = true)

/-- R39, the engine's column: what each command may write. -/
def Obligations.CommandsWriteOnlyTheirRows : Prop :=
  ∀ (i : Instr) (s t : State), exec i s = .next t →
    KeptByCommands s t ∧
    (¬i.WritesValid → t.status.valid = s.status.valid) ∧
    (¬i.WritesHeader → t.hdr = s.hdr) ∧
    (¬i.WritesGrid → t.pb = s.pb) ∧
    (i ≠ .getPixel → t.result = s.result) ∧
    (i ≠ .encode → t.outLen = s.outLen ∧ ∀ k, t.outByte k = s.outByte k)

/-- R39, the host's column: no host access writes the image, RESULT, OUT_LEN, OUT_BUF, or a result
flag or ERR except to clear them. -/
def Obligations.HostAccessesWriteOnlyTheirRows : Prop :=
  ∀ (s : State) (a : Access),
    let t := (s.access a).1
    SameImage s t ∧ SameResults s t ∧ t.cfg = s.cfg ∧ t.draws = s.draws ∧
    (t.status.done = true → s.status.done = true) ∧
    (t.status.clip = true → s.status.clip = true) ∧
    (t.status.warnTrail = true → s.status.warnTrail = true) ∧
    (t.status.warnHdrSize = true → s.status.warnHdrSize = true) ∧
    (t.status.err = s.status.err ∨ t.status.err = .none)

/-- R113: a command that raises an error leaves everything but STATUS's ERR, flags, BUSY and DONE as
it was when it started. -/
def Obligations.ErrorsAreAllOrNothing : Prop :=
  ∀ s t : State, s.status.busy = true → engineStep s = .next t → t.status.err ≠ .none →
    t = { s with status := { s.status with
      err := t.status.err, clip := false, warnTrail := false, warnHdrSize := false, busy := false,
      done := true } }

/-- R116, R112: every command clears BUSY and sets DONE; the flags are set only with ERR = NONE, CLIP
only by the commands that plot, WARN_* only by DECODE, and never both kinds. -/
def Obligations.ResultFlagsOnlyOnSuccess : Prop :=
  ∀ (i : Instr) (s t : State), exec i s = .next t →
    t.status.busy = false ∧ t.status.done = true ∧
    (t.status.err ≠ .none →
      t.status.clip = false ∧ t.status.warnTrail = false ∧ t.status.warnHdrSize = false) ∧
    (t.status.clip = true →
      i.Plots ∧ t.status.warnTrail = false ∧ t.status.warnHdrSize = false) ∧
    (t.status.warnTrail = true ∨ t.status.warnHdrSize = true → i = .decode)

/-- R114: a command that needs the image raises NO_IMAGE when VALID = 0, before any other check. -/
def Obligations.ImageCommandsRaiseNoImage : Prop :=
  ∀ (i : Instr) (s : State), i.NeedsImage → s.status.valid = false →
    exec i s = .next (s.raise .noImage)

/-- R18, R19, R58: the engine reads its operands from the latch only: whatever the host has written
since to the argument registers, IN_LEN or CTRL, the command does the same. -/
def Obligations.CommandsReadOnlyTheLatch : Prop :=
  ∀ (i : Instr) (s : State) (a : Args) (l : Word) (q : Bool),
    exec i { s with args := a, inLen := l, irqEn := q } =
      match exec i s with
      | .next t => .next { t with args := a, inLen := l, irqEn := q }
      | .fault f => .fault f
      | .refused r => .refused r

/-! ### DECODE and ENCODE (40_codec.md) -/

/-- R80, R115: the six errors of DECODE, in their order. -/
def Obligations.DecodeReportsTheFirstError : Prop :=
  ∀ s : State,
    let n := s.latch.inLen.toNat
    let w := s.u32At 18
    let h := s.u32At 22
    let bpp := s.u16At 28
    (n < 54 → exec .decode s = .next (s.raise .fmtShortHeader)) ∧
    (54 ≤ n → (s.inByte 0 ≠ 0x42 ∨ s.inByte 1 ≠ 0x4D) →
      exec .decode s = .next (s.raise .fmtBadSignature)) ∧
    (54 ≤ n → s.inByte 0 = 0x42 → s.inByte 1 = 0x4D → bpp ≠ 24 → bpp ≠ 32 →
      exec .decode s = .next (s.raise .fmtUnsupportedDepth)) ∧
    (54 ≤ n → s.inByte 0 = 0x42 → s.inByte 1 = 0x4D → (bpp = 24 ∨ bpp = 32) → s.u32At 30 ≠ 0 →
      exec .decode s = .next (s.raise .fmtUnsupportedCompression)) ∧
    (54 ≤ n → s.inByte 0 = 0x42 → s.inByte 1 = 0x4D → (bpp = 24 ∨ bpp = 32) → s.u32At 30 = 0 →
      (s.cfg.maxW < w ∨ s.cfg.maxH < h ∨ s.cfg.maxPixels < w * h) →
      exec .decode s = .next (s.raise .capacity)) ∧
    (54 ≤ n → s.inByte 0 = 0x42 → s.inByte 1 = 0x4D → (bpp = 24 ∨ bpp = 32) → s.u32At 30 = 0 →
      w ≤ s.cfg.maxW → h ≤ s.cfg.maxH → w * h ≤ s.cfg.maxPixels → n < 54 + rowBytes w bpp * h →
      exec .decode s = .next (s.raise .fmtTruncatedPixelData))

/-- R80, R81, R82, R75 to R78: DECODE of a stream that passes every check completes, with the
header fields and the pixels of the stream, VALID = 1, the two warnings as R81 and R82 say, and
nothing else changed. -/
def Obligations.DecodeStoresTheStream : Prop :=
  ∀ s : State,
    let n := s.latch.inLen.toNat
    let w := s.u32At 18
    let h := s.u32At 22
    let bpp := s.u16At 28
    54 ≤ n → s.inByte 0 = 0x42 → s.inByte 1 = 0x4D → (bpp = 24 ∨ bpp = 32) → s.u32At 30 = 0 →
    w ≤ s.cfg.maxW → h ≤ s.cfg.maxH → w * h ≤ s.cfg.maxPixels → 54 + rowBytes w bpp * h ≤ n →
    ∃ t px, exec .decode s = .next t ∧ HeaderOfStream s t.hdr ∧
      (∀ x y, x < w → y < h →
        PixelAt s.inByte bpp (54 + y * rowBytes w bpp + x * (bpp / 8)) (px x y) ∧
        (bpp = 24 → (px x y).extractLsb' 24 8 = 0xFF)) ∧
      NewImage s t w h px
        { warnTrail := decide (54 + rowBytes w bpp * h < n), warnHdrSize := decide (s.u32At 14 ≠ 40) }

/-- R85, R70, R72, R75, R77, R78, R87, R41: ENCODE completes. OUT_LEN is 54 + Stride * height; the
fifteen header registers stand in the first 54 bytes as they are; every pixel stands at its offset,
with zeros after each 24 bpp row; every byte at index OUT_LEN and above keeps its value; and the
image, RESULT and the rest stay. -/
def Obligations.EncodeWritesTheStream : Prop :=
  ∀ s : State, (s.status.valid = false → exec .encode s = .next (s.raise .noImage)) ∧
    (s.cfg.wf = true → HasImage s →
      ∃ t, exec .encode s = .next t ∧
        t.outLen.toNat = 54 + rowBytes s.width s.depth * s.height ∧ HeaderAt t.outByte s.hdr ∧
        (∀ x y c, Grid.get? s.pb x y = some c →
          PixelAt t.outByte s.depth
            (54 + y * rowBytes s.width s.depth + x * (s.depth / 8)) c) ∧
        (∀ y k, y < s.height → s.width * (s.depth / 8) ≤ k → k < rowBytes s.width s.depth →
          t.outByte (54 + y * rowBytes s.width s.depth + k) = 0) ∧
        (∀ k, t.outLen.toNat ≤ k → t.outByte k = s.outByte k) ∧
        Completed t .none {} ∧ SameImage s t ∧ t.result = s.result ∧ KeptByCommands s t)

/-- R88: the round trip. A stream that ENCODE wrote, copied to IN_BUF and decoded, gives the same
fifteen header registers, ERR = NONE, WARN_TRAIL = 0, WARN_HDRSIZE exactly when HDR_INFO_SIZE is not
40, and the same PB, save that at 24 bpp every alpha becomes 0xFF; so PB is the same at 32 bpp, and
at 24 bpp when every alpha is 0xFF. -/
def Obligations.DecodeUndoesEncode : Prop :=
  ∀ s : State, s.cfg.wf = true → HasImage s →
    ∃ t, exec .encode s = .next t ∧
      ∀ u : State, u.cfg = s.cfg → u.latch.inLen = t.outLen →
        (∀ i < t.outLen.toNat, u.inByte i = t.outByte i) →
        ∃ v, exec .decode u = .next v ∧ v.hdr = s.hdr ∧
          Completed v .none { warnHdrSize := decide (s.hdr.infoSize ≠ 40) } ∧
          v.status.valid = true ∧ Grid.hasShape v.pb s.width s.height = true ∧
          (∀ x y c, Grid.get? s.pb x y = some c →
            Grid.get? v.pb x y
              = some (if s.depth = 32 then c else (0xFF#8 ++ c.extractLsb' 0 24 : Color))) ∧
          ((s.depth = 32 ∨ ∀ x y c, Grid.get? s.pb x y = some c → c.extractLsb' 24 8 = 0xFF) →
            v.pb = s.pb)

/-! ### Construction and access (41_buffer.md) -/

/-- R89, R90, R115: CONSTRUCT: BAD_ARG, then CAPACITY, else the filled image with R90's headers. -/
def Obligations.ConstructBuildsTheFilledImage : Prop :=
  ∀ s : State, s.cfg.wf = true →
    let w := s.latch.args.w.toNat
    let h := s.latch.args.h.toNat
    let bpp := s.latch.args.bppArg.toNat
    (bpp ≠ 24 → bpp ≠ 32 → exec .construct s = .next (s.raise .badArg)) ∧
    ((bpp = 24 ∨ bpp = 32) → (s.cfg.maxW < w ∨ s.cfg.maxH < h ∨ s.cfg.maxPixels < w * h) →
      exec .construct s = .next (s.raise .capacity)) ∧
    ((bpp = 24 ∨ bpp = 32) → w ≤ s.cfg.maxW → h ≤ s.cfg.maxH → w * h ≤ s.cfg.maxPixels →
      ∃ t, exec .construct s = .next t ∧ IsConstructed t.hdr w h bpp ∧
        NewImage s t w h (fun _ _ => s.latch.args.color0) {})

/-- R91, R90, R115: CONSTRUCT_C: BAD_ARG, CAPACITY, INDEX, else the filled image with the pixel in
row h/2, column w/2 set to COLOR1. -/
def Obligations.ConstructCSetsTheCentrePixel : Prop :=
  ∀ s : State, s.cfg.wf = true →
    let w := s.latch.args.w.toNat
    let h := s.latch.args.h.toNat
    let bpp := s.latch.args.bppArg.toNat
    (bpp ≠ 24 → bpp ≠ 32 → exec .constructC s = .next (s.raise .badArg)) ∧
    ((bpp = 24 ∨ bpp = 32) → (s.cfg.maxW < w ∨ s.cfg.maxH < h ∨ s.cfg.maxPixels < w * h) →
      exec .constructC s = .next (s.raise .capacity)) ∧
    ((bpp = 24 ∨ bpp = 32) → w ≤ s.cfg.maxW → h ≤ s.cfg.maxH → w * h ≤ s.cfg.maxPixels →
      (w = 0 ∨ h = 0) → exec .constructC s = .next (s.raise .index)) ∧
    ((bpp = 24 ∨ bpp = 32) → w ≤ s.cfg.maxW → h ≤ s.cfg.maxH → w * h ≤ s.cfg.maxPixels →
      0 < w → 0 < h →
      ∃ t, exec .constructC s = .next t ∧ IsConstructed t.hdr w h bpp ∧
        NewImage s t w h
          (fun x y => if x = w / 2 ∧ y = h / 2 then s.latch.args.color1 else s.latch.args.color0) {})

/-- R92: GET_PIXEL: NO_IMAGE, then INDEX, else RESULT is the pixel and nothing but STATUS changes
beside it. -/
def Obligations.GetPixelReadsThePixel : Prop :=
  ∀ s : State,
    let x := s.latch.args.x0.toInt
    let y := s.latch.args.y0.toInt
    (s.status.valid = false → exec .getPixel s = .next (s.raise .noImage)) ∧
    (HasImage s → ¬s.Inside x y → exec .getPixel s = .next (s.raise .index)) ∧
    (HasImage s → s.Inside x y →
      ∃ c t, Grid.get? s.pb x.toNat y.toNat = some c ∧ exec .getPixel s = .next t ∧
        t.result = c ∧ Completed t .none {} ∧ SameImage s t ∧ t.outLen = s.outLen ∧
        (∀ k, t.outByte k = s.outByte k) ∧ KeptByCommands s t)

/-! ### Points and rectangles (42_point_rect.md) -/

/-- R95, R96: SET_PIXEL: with the centre out of bounds a no-op that sets CLIP; else the centre and,
with t > 1, every pixel of the image within t of it in both coordinates, and CLIP = 0. -/
def Obligations.SetPixelPaintsTheNeighbourhood : Prop :=
  ∀ s : State,
    let x := s.latch.args.x0.toInt
    let y := s.latch.args.y0.toInt
    let r : Int := s.latch.args.thick.toNat
    (s.status.valid = false → exec .setPixel s = .next (s.raise .noImage)) ∧
    (HasImage s → ¬s.Inside x y →
      ∃ t, exec .setPixel s = .next t ∧ t.pb = s.pb ∧ Drawn s t (fun _ _ => False) True) ∧
    (HasImage s → s.Inside x y →
      ∃ t, exec .setPixel s = .next t ∧
        Drawn s t (fun i j => (i = x ∧ j = y) ∨ (1 < r ∧ |i - x| ≤ r ∧ |j - y| ≤ r)) False)

/-- R98, R97: RECT_OUTLINE: NO_IMAGE, then INDEX when RectOK fails, else exactly the four edges. -/
def Obligations.RectOutlineDrawsTheEdges : Prop :=
  ∀ s : State,
    let x0 := s.latch.args.x0.toInt
    let y0 := s.latch.args.y0.toInt
    let w : Int := s.latch.args.w.toNat
    let h : Int := s.latch.args.h.toNat
    let ok := x0 ≥ 0 ∧ y0 ≥ 0 ∧ x0 + w ≤ s.width ∧ y0 + h ≤ s.height
    (s.status.valid = false → exec .rectOutline s = .next (s.raise .noImage)) ∧
    (HasImage s → ¬ok → exec .rectOutline s = .next (s.raise .index)) ∧
    (HasImage s → ok →
      ∃ t, exec .rectOutline s = .next t ∧
        Drawn s t (fun x y => (x0 ≤ x ∧ x ≤ x0 + w - 1 ∧ y0 ≤ y ∧ y ≤ y0 + h - 1) ∧
          (x = x0 ∨ x = x0 + w - 1 ∨ y = y0 ∨ y = y0 + h - 1)) False)

/-- R99, R97: RECT_FILL: NO_IMAGE, then INDEX when RectOK fails, else exactly the rectangle. -/
def Obligations.RectFillFillsTheRectangle : Prop :=
  ∀ s : State,
    let x0 := s.latch.args.x0.toInt
    let y0 := s.latch.args.y0.toInt
    let w : Int := s.latch.args.w.toNat
    let h : Int := s.latch.args.h.toNat
    let ok := x0 ≥ 0 ∧ y0 ≥ 0 ∧ x0 + w ≤ s.width ∧ y0 + h ≤ s.height
    (s.status.valid = false → exec .rectFill s = .next (s.raise .noImage)) ∧
    (HasImage s → ¬ok → exec .rectFill s = .next (s.raise .index)) ∧
    (HasImage s → ok →
      ∃ t, exec .rectFill s = .next t ∧
        Drawn s t (fun x y => x0 ≤ x ∧ x ≤ x0 + w - 1 ∧ y0 ≤ y ∧ y ≤ y0 + h - 1) False)

/-! ### Lines, circles, triangles (43_line.md to 45_triangle_upscale.md) -/

/-- R101: DRAW_LINE paints exactly the points of LinePoints that are in bounds, and sets CLIP exactly
when one is not. -/
def Obligations.DrawLinePaintsLinePoints : Prop :=
  ∀ s : State,
    let pts := linePoints s.latch.args.x0.toInt s.latch.args.y0.toInt s.latch.args.x1.toInt
      s.latch.args.y1.toInt
    (s.status.valid = false → exec .drawLine s = .next (s.raise .noImage)) ∧
    (HasImage s →
      ∃ t, exec .drawLine s = .next t ∧
        Drawn s t (fun x y => (x, y) ∈ pts) (∃ p ∈ pts, ¬s.Inside p.1 p.2))

/-- R105: DRAW_CIRCLE, likewise with CirclePoints. -/
def Obligations.DrawCirclePaintsCirclePoints : Prop :=
  ∀ s : State,
    let pts := circlePoints s.latch.args.x0.toInt s.latch.args.y0.toInt s.latch.args.radius.toInt
    (s.status.valid = false → exec .drawCircle s = .next (s.raise .noImage)) ∧
    (HasImage s →
      ∃ t, exec .drawCircle s = .next t ∧
        Drawn s t (fun x y => (x, y) ∈ pts) (∃ p ∈ pts, ¬s.Inside p.1 p.2))

/-- R107: DRAW_TRIANGLE paints the union of the three lines, clipped likewise. -/
def Obligations.DrawTrianglePaintsThreeLines : Prop :=
  ∀ s : State,
    let a := s.latch.args
    let onEdge := fun p : Int × Int =>
      p ∈ linePoints a.x0.toInt a.y0.toInt a.x1.toInt a.y1.toInt ∨
      p ∈ linePoints a.x1.toInt a.y1.toInt a.x2.toInt a.y2.toInt ∨
      p ∈ linePoints a.x2.toInt a.y2.toInt a.x0.toInt a.y0.toInt
    (s.status.valid = false → exec .drawTriangle s = .next (s.raise .noImage)) ∧
    (HasImage s →
      ∃ t, exec .drawTriangle s = .next t ∧
        Drawn s t (fun x y => onEdge (x, y)) (∃ p, onEdge p ∧ ¬s.Inside p.1 p.2))

/-- R102: for every integer input, LinePoints has exactly max(|x1 - x0|, |y1 - y0|) + 1 points and no
point twice; its first and last points are the two endpoints, in one order or the other; it does not
depend on which endpoint is given first; and horizontal and vertical lines plot exactly the pixels
between their ends. -/
def Obligations.LinePointsHaveTheFourProperties : Prop :=
  ∀ x0 y0 x1 y1 : Int,
    let pts := linePoints x0 y0 x1 y1
    ((pts.length : Int) = max |x1 - x0| |y1 - y0| + 1 ∧ pts.Nodup) ∧
    ((pts.head? = some (x0, y0) ∧ pts.getLast? = some (x1, y1)) ∨
      (pts.head? = some (x1, y1) ∧ pts.getLast? = some (x0, y0))) ∧
    pts = linePoints x1 y1 x0 y0 ∧
    (y0 = y1 → ∀ x y, (x, y) ∈ pts ↔ y = y0 ∧ min x0 x1 ≤ x ∧ x ≤ max x0 x1) ∧
    (x0 = x1 → ∀ x y, (x, y) ∈ pts ↔ x = x0 ∧ min y0 y1 ≤ y ∧ y ≤ max y0 y1)

/-- R100: where the k-th point of a line lies. With x0 < x1 and a line that is not steep it is in
column x0 + k, and n rows from y0, n being the one number that brings the error term
`dx / 2 - k * dy + n * dx` into [0, dx); a steep line with y0 < y1 has the roles of x and y swapped.
(The other directions are the same lists.) -/
def Obligations.LinePointsFollowTheErrorTerm : Prop :=
  ∀ (x0 y0 x1 y1 : Int) (k : Nat),
    (x0 < x1 → |y1 - y0| ≤ x1 - x0 → k ≤ x1 - x0 →
      ∃ n : Int, (linePoints x0 y0 x1 y1)[k]? = some (x0 + k, if y0 < y1 then y0 + n else y0 - n) ∧
        0 ≤ (x1 - x0) / 2 - k * |y1 - y0| + n * (x1 - x0) ∧
        (x1 - x0) / 2 - k * |y1 - y0| + n * (x1 - x0) < x1 - x0) ∧
    (|x1 - x0| < y1 - y0 → k ≤ y1 - y0 →
      ∃ n : Int, (linePoints x0 y0 x1 y1)[k]? = some (if x0 < x1 then x0 + n else x0 - n, y0 + k) ∧
        0 ≤ (y1 - y0) / 2 - k * |x1 - x0| + n * (y1 - y0) ∧
        (y1 - y0) / 2 - k * |x1 - x0| + n * (y1 - y0) < y1 - y0)

/-- R106 items 1 and 2: the points of a circle are symmetric under the eight reflections about its
centre; for r = 5 every point's distance from the centre rounds to 5, being in [4.5, 5.5). -/
def Obligations.CirclePointsAreSymmetric : Prop :=
  (∀ cx cy r a b : Int, (cx + a, cy + b) ∈ circlePoints cx cy r →
    (cx - a, cy + b) ∈ circlePoints cx cy r ∧ (cx + a, cy - b) ∈ circlePoints cx cy r ∧
    (cx + b, cy + a) ∈ circlePoints cx cy r) ∧
  ∀ cx cy a b : Int, (cx + a, cy + b) ∈ circlePoints cx cy 5 →
    81 ≤ 4 * (a * a + b * b) ∧ 4 * (a * a + b * b) < 121

/-- R104: which offsets the loop plots in the first octant: in row y exactly the x for which
`(x - 1/2)^2 + y^2 <= r^2 + 1/4 < (x + 1/2)^2 + y^2`, which is what the decision variable decides. -/
def Obligations.CirclePointsFollowTheMidpointRule : Prop :=
  ∀ cx cy r x y : Int, 1 ≤ r → 0 ≤ y → y ≤ x →
    ((cx + x, cy + y) ∈ circlePoints cx cy r ↔
      x * (x - 1) + y * y ≤ r * r ∧ r * r < x * (x + 1) + y * y)

/-- R104: the loop stops because y > x, never because its rounds run out: more rounds give the same
points. R105's corner cases: r < 0 plots nothing, r = 0 plots the centre only. -/
def Obligations.CircleLoopEndsByItself : Prop :=
  (∀ (cx cy r : Int) (n : Nat), r + 1 ≤ n → circleLoop cx cy n r 0 (1 - r) = circlePoints cx cy r) ∧
  (∀ cx cy r : Int, r < 0 → circlePoints cx cy r = []) ∧
  ∀ (cx cy : Int) (p : Int × Int), p ∈ circlePoints cx cy 0 ↔ p = (cx, cy)

/-- R108, R109, R110: UPSCALE: NO_IMAGE, BAD_ARG, CAPACITY, else each pixel becomes an f by f block,
exactly four header registers are written, and nothing else changes. -/
def Obligations.UpscaleReplicatesPixels : Prop :=
  ∀ s : State, s.cfg.wf = true →
    let f := s.latch.args.factor.toNat
    let nw := s.width * f
    let nh := s.height * f
    (s.status.valid = false → exec .upscale s = .next (s.raise .noImage)) ∧
    (HasImage s → f = 0 → exec .upscale s = .next (s.raise .badArg)) ∧
    (HasImage s → 0 < f → (s.cfg.maxW < nw ∨ s.cfg.maxH < nh ∨ s.cfg.maxPixels < nw * nh) →
      exec .upscale s = .next (s.raise .capacity)) ∧
    (HasImage s → 0 < f → nw ≤ s.cfg.maxW → nh ≤ s.cfg.maxH → nw * nh ≤ s.cfg.maxPixels →
      ∃ t, exec .upscale s = .next t ∧ IsRescaled s.hdr t.hdr nw nh s.depth ∧
        Grid.hasShape t.pb nw nh = true ∧
        (∀ x y, x < nw → y < nh → Grid.get? t.pb x y = Grid.get? s.pb (x / f) (y / f)) ∧
        t.status.valid = true ∧ Completed t .none {} ∧ SameResults s t ∧ KeptByCommands s t)

/-! ### The host bus (10_state.md, 20_memory.md) -/

/-- R17, R20, R21, R28 to R31, R35 to R37: what a 4-byte read at every register's offset returns.
The offsets are the spec's numbers, not `Reg.offset`; a u16 header register has 0 in bits 31:16. The
eleven codes that STATUS bits 15:8 hold are R111's numbers. -/
def Obligations.RegisterReadsReturnTheirFields : Prop :=
  ∀ s : State, s.cfg.wf = true →
    let rd := fun (off : Nat) (v : Word) =>
      s.access (.read (trunc32 (s.cfg.regBase + off)) .four) = (s, some (.okay v))
    rd 0x000 s.cmd ∧
    (∃ v, rd 0x004 v ∧ v.getLsbD 0 = s.status.busy ∧ v.getLsbD 1 = s.status.done ∧
      v.getLsbD 2 = s.status.valid ∧ v.getLsbD 3 = s.status.clip ∧
      v.getLsbD 4 = s.status.warnTrail ∧ v.getLsbD 5 = s.status.warnHdrSize ∧
      v.getLsbD 6 = s.status.cmdLost ∧ v.getLsbD 7 = false ∧
      v.extractLsb' 8 8 = s.status.err.code ∧ v.extractLsb' 16 16 = 0) ∧
    (ResultCode.none.code = 0x00 ∧ ResultCode.fmtShortHeader.code = 0x01 ∧
      ResultCode.fmtBadSignature.code = 0x02 ∧ ResultCode.fmtUnsupportedDepth.code = 0x03 ∧
      ResultCode.fmtUnsupportedCompression.code = 0x04 ∧
      ResultCode.fmtTruncatedPixelData.code = 0x05 ∧ ResultCode.index.code = 0x08 ∧
      ResultCode.illegalCmd.code = 0x10 ∧ ResultCode.noImage.code = 0x11 ∧
      ResultCode.badArg.code = 0x12 ∧ ResultCode.capacity.code = 0x13) ∧
    (∃ v, rd 0x008 v ∧ v.toNat = s.irqEn.toNat) ∧
    rd 0x00C 0x43504249 ∧
    rd 0x010 s.args.x0 ∧ rd 0x014 s.args.y0 ∧ rd 0x018 s.args.x1 ∧ rd 0x01C s.args.y1 ∧
    rd 0x020 s.args.x2 ∧ rd 0x024 s.args.y2 ∧ rd 0x028 s.args.w ∧ rd 0x02C s.args.h ∧
    rd 0x030 s.args.radius ∧ rd 0x034 s.args.thick ∧ rd 0x038 s.args.factor ∧
    rd 0x03C s.args.bppArg ∧ rd 0x040 s.args.color0 ∧ rd 0x044 s.args.color1 ∧
    rd 0x048 s.inLen ∧ rd 0x04C s.outLen ∧ rd 0x050 s.result ∧
    (∃ v, rd 0x060 v ∧ v.toNat = s.cfg.maxW) ∧
    (∃ v, rd 0x064 v ∧ v.toNat = s.cfg.maxH) ∧
    (∃ v, rd 0x068 v ∧ v.toNat = s.cfg.maxPixels) ∧
    (∃ v, rd 0x06C v ∧ v.toNat = s.cfg.inCap) ∧
    (∃ v, rd 0x070 v ∧ v.toNat = s.cfg.outCap) ∧
    rd 0x100 (0#16 ++ s.hdr.signature) ∧ rd 0x104 s.hdr.fileSize ∧ rd 0x108 s.hdr.reserved ∧
    rd 0x10C s.hdr.dataOffset ∧ rd 0x110 s.hdr.infoSize ∧ rd 0x114 s.hdr.width ∧
    rd 0x118 s.hdr.height ∧ rd 0x11C (0#16 ++ s.hdr.planes) ∧ rd 0x120 (0#16 ++ s.hdr.bpp) ∧
    rd 0x124 s.hdr.compression ∧ rd 0x128 s.hdr.pixelDataSize ∧ rd 0x12C s.hdr.trail0 ∧
    rd 0x130 s.hdr.trail1 ∧ rd 0x134 s.hdr.trail2 ∧ rd 0x138 s.hdr.trail3

/-- R18: a host write to an argument register stores all 32 bits, whether or not BUSY is 1, and a
read returns them; no other register reads differently; and a command that is running is not
affected. -/
def Obligations.ArgumentRegistersAreStorage : Prop :=
  ∀ (s : State) (r : Reg) (v : Word), s.cfg.wf = true → 0x10 ≤ r.offset → r.offset ≤ 0x44 →
    ∃ t, s.access (.write (regAddr s.cfg r) .four v) = (t, some (.okay 0)) ∧
      t.access (.read (regAddr s.cfg r) .four) = (t, some (.okay v)) ∧
      (∀ q, q ≠ r → t.readReg q = s.readReg q) ∧ t = { s with args := t.args } ∧
      ∀ u, engineStep s = .next u → engineStep t = .next { u with args := t.args }

/-- R20, R19: a CMD write is accepted while BUSY = 0 and loads the latch; it is dropped while BUSY =
1, and nothing but CMD_LOST changes. -/
def Obligations.CmdWriteIsAcceptedOrDropped : Prop :=
  ∀ (s : State) (v : Word), s.cfg.wf = true →
    (s.status.busy = false →
      s.access (.write (regAddr s.cfg .cmd) .four v) =
        ({ s with
            cmd := v
            latch := { cmd := v, args := s.args, inLen := s.inLen }
            status := { s.status with
              busy := true, clip := false, warnTrail := false, warnHdrSize := false,
              err := .none } }, some (.okay 0))) ∧
    (s.status.busy = true →
      s.access (.write (regAddr s.cfg .cmd) .four v) =
        ({ s with status := { s.status with cmdLost := true } }, some (.okay 0)))

/-- R21: a host write to STATUS clears DONE if bit 1 is 1 and CMD_LOST if bit 6 is 1, and changes
nothing else. -/
def Obligations.StatusWriteClearsDoneAndCmdLost : Prop :=
  ∀ (s : State) (v : Word), s.cfg.wf = true →
    s.access (.write (regAddr s.cfg .status) .four v) =
      ({ s with status := { s.status with
          done := if v.getLsbD 1 then false else s.status.done
          cmdLost := if v.getLsbD 6 then false else s.status.cmdLost } }, some (.okay 0))

/-- R37: IN_LEN is write-any-read-legal: a write of v stores min(v, IN_CAP), and a read returns it. -/
def Obligations.InLenIsClampedToCapacity : Prop :=
  ∀ (s : State) (v : Word), s.cfg.wf = true →
    ∃ t w, s.access (.write (regAddr s.cfg .inLen) .four v) = (t, some (.okay 0)) ∧
      t.access (.read (regAddr s.cfg .inLen) .four) = (t, some (.okay w)) ∧
      w.toNat = min v.toNat s.cfg.inCap ∧ t = { s with inLen := w }

/-- R54, R52: a read has no side effect; an access that gets SLVERR changes no state, and its read
data is all zero. -/
def Obligations.ReadsAndErrorsChangeNothing : Prop :=
  ∀ s : State, (∀ a n, (s.access (.read a n)).1 = s) ∧
    ∀ (a : Access) (r : Response), (s.access a).2 = some r → r.kind = .slverr →
      (s.access a).1 = s ∧ r.data = 0

/-- R48, R38: the register window answers SLVERR to any access that is not an aligned 4-byte one;
where an aligned offset has no register, a read returns 0 and a write is ignored, both OKAY. -/
def Obligations.RegisterWindowTakesAlignedWords : Prop :=
  ∀ (s : State) (off : Nat), s.cfg.wf = true → off < 0x1000 →
    let a := trunc32 (s.cfg.regBase + off)
    (∀ n v, (n ≠ .four ∨ off % 4 ≠ 0) →
      s.access (.read a n) = (s, some .slverr) ∧ s.access (.write a n v) = (s, some .slverr)) ∧
    (∀ v, off % 4 = 0 → (∀ r : Reg, r.offset ≠ off) →
      s.access (.read a .four) = (s, some (.okay 0)) ∧
      s.access (.write a .four v) = (s, some (.okay 0))) ∧
    (∀ (r : Reg) (v : Word), off = r.offset → r ≠ .cmd → r ≠ .status → r ≠ .ctrl → r ≠ .inLen →
      ¬(0x10 ≤ r.offset ∧ r.offset ≤ 0x44) → s.access (.write a .four v) = (s, some (.okay 0)))

/-- R49, R53: an access to a buffer window that is misaligned, or not wholly inside, or made while
BUSY = 1, gets SLVERR and changes nothing. -/
def Obligations.BufferWindowsRefuseBadAccesses : Prop :=
  ∀ (s : State) (off : Nat) (n : Size) (v : Word), s.cfg.wf = true →
    (off < s.cfg.inCap →
      (s.status.busy = true ∨ off % n.bytes ≠ 0 ∨ s.cfg.inCap < off + n.bytes) →
      s.access (.read (trunc32 (s.cfg.inBase + off)) n) = (s, some .slverr) ∧
      s.access (.write (trunc32 (s.cfg.inBase + off)) n v) = (s, some .slverr)) ∧
    (off < s.cfg.outCap →
      (s.status.busy = true ∨ off % n.bytes ≠ 0 ∨ s.cfg.outCap < off + n.bytes) →
      s.access (.read (trunc32 (s.cfg.outBase + off)) n) = (s, some .slverr)) ∧
    (off < s.cfg.outCap →
      s.access (.write (trunc32 (s.cfg.outBase + off)) n v) = (s, some .slverr))

/-- R50, R45, R46: an aligned access of n bytes inside the input window, while BUSY = 0, is OKAY. A
read returns the IN_BUF bytes, the lowest index in the lowest data bits, and changes nothing. A write
stores the data bytes little-endian and changes no other byte and nothing else; a read there then
returns the data. -/
def Obligations.InputWindowStoresLittleEndian : Prop :=
  ∀ (s : State) (off : Nat) (n : Size) (v : Word), s.cfg.wf = true → s.status.busy = false →
    off % n.bytes = 0 → off + n.bytes ≤ s.cfg.inCap →
    (∃ r, s.access (.read (trunc32 (s.cfg.inBase + off)) n) = (s, some (.okay r)) ∧
      (∀ k < n.bytes, r.extractLsb' (8 * k) 8 = s.inByte (off + k)) ∧
      r.toNat < 2 ^ (8 * n.bytes)) ∧
    ∃ t, s.access (.write (trunc32 (s.cfg.inBase + off)) n v) = (t, some (.okay 0)) ∧
      (∀ k < n.bytes, t.inByte (off + k) = v.extractLsb' (8 * k) 8) ∧
      (∀ k, k < off ∨ off + n.bytes ≤ k → t.inByte k = s.inByte k) ∧
      t = { s with inBuf := t.inBuf } ∧
      ∃ w, t.access (.read (trunc32 (s.cfg.inBase + off)) n) = (t, some (.okay w)) ∧
        w.toNat = v.toNat % 2 ^ (8 * n.bytes)

/-- R51, R45: an aligned read inside the output window, while BUSY = 0, returns the OUT_BUF bytes,
the lowest index in the lowest data bits. -/
def Obligations.OutputWindowReadsLittleEndian : Prop :=
  ∀ (s : State) (off : Nat) (n : Size), s.cfg.wf = true → s.status.busy = false →
    off % n.bytes = 0 → off + n.bytes ≤ s.cfg.outCap →
    ∃ w, s.access (.read (trunc32 (s.cfg.outBase + off)) n) = (s, some (.okay w)) ∧
      (∀ k < n.bytes, w.extractLsb' (8 * k) 8 = s.outByte (off + k)) ∧
      w.toNat < 2 ^ (8 * n.bytes)

/-- R44, U16: the block does not respond to an address outside its windows, and changes nothing
(log 7). -/
def Obligations.OutsideTheWindowsNoResponse : Prop :=
  ∀ (s : State) (a : Word) (n : Size) (v : Word),
    (a.toNat < s.cfg.regBase ∨ s.cfg.regBase + 0x1000 ≤ a.toNat) →
    (a.toNat < s.cfg.inBase ∨ s.cfg.inBase + s.cfg.inCap ≤ a.toNat) →
    (a.toNat < s.cfg.outBase ∨ s.cfg.outBase + s.cfg.outCap ≤ a.toNat) →
    s.access (.read a n) = (s, none) ∧ s.access (.write a n v) = (s, none)

/-! ### Interrupt, reset, scripts, row arithmetic -/

/-- R120, R42: irq is DONE and IRQ_EN; a completion with IRQ_EN = 1 raises it, a W1C write of DONE
lowers it, and IRQ_EN = 0 lowers it but keeps DONE. -/
def Obligations.IrqFollowsDoneAndEnable : Prop :=
  (∀ s : State, s.irq = true ↔ s.status.done = true ∧ s.irqEn = true) ∧
  (∀ (i : Instr) (s t : State), exec i s = .next t → t.irq = s.irqEn) ∧
  (∀ s : State, s.cfg.wf = true →
    (s.access (.write (regAddr s.cfg .status) .four 0x2)).1.irq = false ∧
    (s.access (.write (regAddr s.cfg .ctrl) .four 0)).1.irq = false ∧
    (s.access (.write (regAddr s.cfg .ctrl) .four 0)).1.status.done = s.status.done ∧
    (s.access (.write (regAddr s.cfg .ctrl) .four 1)).1.irq = s.status.done)

/-- R124, R125: after a reset step, whatever was running, every register reads 0 but ID and CAP_*,
STATUS is 0, PB has no rows, irq is 0, and the parameters stay. That the host goes on with the rest of
`script` is the model's choice (log 14). -/
def Obligations.ResetGivesTheResetValues : Prop :=
  ∀ (s : State) (rest : List HostOp), s.nextAgent = .host → s.script = .reset :: rest →
    ∃ t, step s = .next t ∧ t.cfg = s.cfg ∧ t.script = rest ∧ t.pb = [] ∧ t.irq = false ∧
      t.status.word = 0 ∧ t.readReg .id = 0x43504249 ∧
      ∀ r : Reg, r ≠ .id → ¬(0x60 ≤ r.offset ∧ r.offset ≤ 0x70) → t.readReg r = 0

/-- R69's example: the binary form of `DRAW_LINE 0, 0, 5, 0, 0xFF00FF00`, read from its text. -/
def Obligations.ScriptExampleIsTheSpecs : Prop :=
  ∀ p : Params, ∃ ls, parseScript "DRAW_LINE 0, 0, 5, 0, 0xFF00FF00 ; a green line" = .ok ls ∧
    scriptOps p ls =
      [.access (.write (trunc32 (p.regBase + 0x010)) .four 0x00000000),
       .access (.write (trunc32 (p.regBase + 0x014)) .four 0x00000000),
       .access (.write (trunc32 (p.regBase + 0x018)) .four 0x00000005),
       .access (.write (trunc32 (p.regBase + 0x01C)) .four 0x00000000),
       .access (.write (trunc32 (p.regBase + 0x040)) .four 0xFF00FF00),
       .access (.write (trunc32 (p.regBase + 0x000)) .four 0x00000011), .wait]

/-- R73, R74, R7: the padding of a 24 bpp row is w mod 4, a row's length is a multiple of 4 and at
most 4w, and so is the last row's. -/
def Obligations.RowLengthsAreMultiplesOfFour : Prop :=
  ∀ w h bpp : Nat, (bpp = 24 ∨ bpp = 32) →
    rowPad w 24 = w % 4 ∧ rowPad w 32 = 0 ∧ stride w bpp = w * (bpp / 8) + rowPad w bpp ∧
    stride w bpp % 4 = 0 ∧ pixBytes w h bpp = stride w bpp * h ∧ pixBytes w h bpp ≤ 4 * w * h

/-- R28: a write of any `v` to CTRL, at offset 0x008, makes IRQ_EN bit 0 of `v`, ignores bits 31:1, and
changes nothing else; a read then returns that bit, with bits 31:1 zero. -/
def Obligations.CtrlWriteStoresIrqEn : Prop :=
  ∀ (s : State) (v : Word), s.cfg.wf = true →
    let a := trunc32 (s.cfg.regBase + 0x008)
    let t := { s with irqEn := v.getLsbD 0 }
    s.access (.write a .four v) = (t, some (.okay 0)) ∧
    ∃ w, t.access (.read a .four) = (t, some (.okay w)) ∧ w.toNat = v.toNat % 2
end

