-- ==== Sys2Proof/Laws/Grid.lean ====
section
/-! SUPPORT. What the pixel-grid operations do: the pixel each one leaves at each place, and that each
keeps the shape of the grid (10_state.md R33, 41_buffer.md R93). -/

namespace Sys2Proof.Machine

open Sys2Proof

theorem Grid.hasShape_iff {g : Grid} {w h : Nat} :
    Grid.hasShape g w h = true ↔ g.length = h ∧ ∀ row ∈ g, row.length = w := by
  simp [Grid.hasShape]

/-- A grid of `h` rows of `w` pixels has exactly the pixels below (R33). -/
theorem Grid.get?_isSome {g : Grid} {w h : Nat} (hs : Grid.hasShape g w h = true) (x y : Nat) :
    (Grid.get? g x y).isSome = true ↔ x < w ∧ y < h := by
  obtain ⟨hl, hr⟩ := Grid.hasShape_iff.1 hs
  unfold Grid.get?
  by_cases hy : y < g.length
  · have := hr _ (List.getElem_mem hy)
    simp [List.getElem?_eq_getElem hy]
    omega
  · simp [List.getElem?_eq_none (Nat.le_of_not_lt hy)]
    omega

theorem Grid.get?_eq_none {g : Grid} {w h : Nat} (hs : Grid.hasShape g w h = true) {x y : Nat}
    (hxy : ¬(x < w ∧ y < h)) : Grid.get? g x y = none := by
  have := (Grid.get?_isSome hs x y).not.2 hxy
  simpa using this

/-- Two grids of one shape with the same pixels are the same grid. -/
theorem Grid.ext_get? {g g' : Grid} {w h : Nat} (hs : Grid.hasShape g w h = true)
    (hs' : Grid.hasShape g' w h = true)
    (hp : ∀ x y, x < w → y < h → Grid.get? g x y = Grid.get? g' x y) : g = g' := by
  obtain ⟨hl, hr⟩ := Grid.hasShape_iff.1 hs
  obtain ⟨hl', hr'⟩ := Grid.hasShape_iff.1 hs'
  refine List.ext_getElem (hl.trans hl'.symm) fun y h1 h2 => ?_
  have e1 := hr _ (List.getElem_mem h1)
  have e2 := hr' _ (List.getElem_mem h2)
  refine List.ext_getElem (e1.trans e2.symm) fun x h3 h4 => ?_
  have := hp x y (by omega) (by omega)
  simpa [Grid.get?, List.getElem?_eq_getElem h1, List.getElem?_eq_getElem h2,
    List.getElem?_eq_getElem h3, List.getElem?_eq_getElem h4] using this

/-! ### One pixel -/

/-- The pixel written holds the colour, and every other pixel is as before. -/
theorem Grid.get?_put (g : Grid) (x y : Nat) (c : Color) (i j : Nat) :
    Grid.get? (Grid.put g x y c) i j
      = if i = x ∧ j = y then (Grid.get? g i j).map fun _ => c else Grid.get? g i j := by
  unfold Grid.get? Grid.put
  rw [List.getElem?_modify]
  by_cases hj : y = j
  · subst hj
    cases hg : g[y]? with
    | none => simp
    | some row =>
      simp only [Option.map_eq_map, Option.map_some, if_true, Option.bind_some, and_true,
        List.getElem?_set]
      by_cases hi : x = i
      · subst hi
        by_cases hx : x < row.length <;> simp [hx]
      · simp [hi, Ne.symm hi]
  · simp [hj, Ne.symm hj]

theorem Grid.hasShape_put {g : Grid} {w h : Nat} (hs : Grid.hasShape g w h = true) (x y : Nat)
    (c : Color) : Grid.hasShape (Grid.put g x y c) w h = true := by
  obtain ⟨hl, hr⟩ := Grid.hasShape_iff.1 hs
  refine Grid.hasShape_iff.2 ⟨by simp [Grid.put, hl], fun row hrow => ?_⟩
  obtain ⟨n, hn, rfl⟩ := List.getElem_of_mem hrow
  have hn' : n < g.length := by simpa [Grid.put] using hn
  simp only [Grid.put, List.getElem_modify]
  split
  · simpa using hr _ (List.getElem_mem hn')
  · exact hr _ (List.getElem_mem hn')

/-! ### A built or filled grid -/

theorem Grid.get?_build (w h : Nat) (f : Nat → Nat → Color) (x y : Nat) :
    Grid.get? (Grid.build w h f) x y = if x < w ∧ y < h then some (f x y) else none := by
  unfold Grid.get? Grid.build
  by_cases hy : y < h
  · by_cases hx : x < w
    · simp [hx, hy]
    · simp [hx, hy]
  · simp [hy]

theorem Grid.hasShape_build (w h : Nat) (f : Nat → Nat → Color) :
    Grid.hasShape (Grid.build w h f) w h = true := by
  refine Grid.hasShape_iff.2 ⟨by simp [Grid.build], fun row hrow => ?_⟩
  obtain ⟨y, -, rfl⟩ := List.mem_map.1 hrow
  simp

theorem Grid.get?_filled (w h : Nat) (c : Color) (x y : Nat) :
    Grid.get? (Grid.filled w h c) x y = if x < w ∧ y < h then some c else none := by
  unfold Grid.get? Grid.filled
  by_cases hy : y < h
  · by_cases hx : x < w <;> simp [hx, hy]
  · simp [hy]

theorem Grid.hasShape_filled (w h : Nat) (c : Color) :
    Grid.hasShape (Grid.filled w h c) w h = true := by
  refine Grid.hasShape_iff.2 ⟨by simp [Grid.filled], fun row hrow => ?_⟩
  rw [List.eq_of_mem_replicate hrow, List.length_replicate]

/-! ### A painted grid -/

theorem paintRow_length (sel : Nat → Bool) (c : Color) (x : Nat) (row : List Color) :
    (paintRow sel c x row).length = row.length := by
  induction row generalizing x with
  | nil => rfl
  | cons p row ih => simp [paintRow, ih]

theorem paintRow_getElem? (sel : Nat → Bool) (c : Color) (x : Nat) (row : List Color) (i : Nat) :
    (paintRow sel c x row)[i]? = row[i]?.map fun p => if sel (x + i) then c else p := by
  induction row generalizing x i with
  | nil => simp [paintRow]
  | cons p row ih =>
    cases i with
    | zero => simp [paintRow]
    | succ i => simp [paintRow, ih, Nat.add_assoc, Nat.add_comm 1]

theorem paintRows_length (sel : Nat → Nat → Bool) (c : Color) (y : Nat) (g : Grid) :
    (paintRows sel c y g).length = g.length := by
  induction g generalizing y with
  | nil => rfl
  | cons row g ih => simp [paintRows, ih]

theorem paintRows_getElem? (sel : Nat → Nat → Bool) (c : Color) (y : Nat) (g : Grid) (j : Nat) :
    (paintRows sel c y g)[j]? = g[j]?.map fun row => paintRow (fun x => sel x (y + j)) c 0 row := by
  induction g generalizing y j with
  | nil => simp [paintRows]
  | cons row g ih =>
    cases j with
    | zero => simp [paintRows]
    | succ j => simp [paintRows, ih, Nat.add_assoc, Nat.add_comm 1]

/-- A painted grid holds the colour where the selection says, and the old pixel elsewhere. -/
theorem Grid.get?_paint (g : Grid) (sel : Nat → Nat → Bool) (c : Color) (x y : Nat) :
    Grid.get? (Grid.paint g sel c) x y
      = (Grid.get? g x y).map fun p => if sel x y then c else p := by
  unfold Grid.get? Grid.paint
  rw [paintRows_getElem?]
  cases g[y]? <;> simp [paintRow_getElem?]

theorem Grid.hasShape_paint {g : Grid} {w h : Nat} (hs : Grid.hasShape g w h = true)
    (sel : Nat → Nat → Bool) (c : Color) : Grid.hasShape (Grid.paint g sel c) w h = true := by
  obtain ⟨hl, hr⟩ := Grid.hasShape_iff.1 hs
  refine Grid.hasShape_iff.2 ⟨by simp [Grid.paint, paintRows_length, hl], fun row hrow => ?_⟩
  obtain ⟨n, hn⟩ := List.mem_iff_getElem?.1 hrow
  rw [Grid.paint, paintRows_getElem?] at hn
  obtain ⟨r, hr', rfl⟩ := Option.map_eq_some_iff.1 hn
  rw [paintRow_length]
  exact hr r (List.mem_of_getElem? hr')

/-! ### Plotted points (42_point_rect.md R94) -/

theorem inBounds_iff {w h : Nat} {x y : Int} :
    inBounds w h x y = true ↔ 0 ≤ x ∧ x < w ∧ 0 ≤ y ∧ y < h := by
  simp [inBounds, and_assoc]

theorem plot_hasShape {g : Grid} {w h : Nat} (hs : Grid.hasShape g w h = true) (c : Color)
    (x y : Int) : Grid.hasShape (plot w h c g x y).1 w h = true := by
  unfold plot
  split
  · exact Grid.hasShape_put hs _ _ _
  · exact hs

/-- Plot writes the colour at an in-bounds point and changes nothing else. -/
theorem get?_plot {g : Grid} {w h : Nat} (hs : Grid.hasShape g w h = true) (c : Color) (x y : Int)
    (i j : Nat) (hi : i < w) (hj : j < h) :
    Grid.get? (plot w h c g x y).1 i j
      = if ((i : Int), (j : Int)) = (x, y) then some c else Grid.get? g i j := by
  have hsome := (Grid.get?_isSome hs i j).2 ⟨hi, hj⟩
  obtain ⟨p, hp⟩ := Option.isSome_iff_exists.1 hsome
  unfold plot
  split
  · rename_i hb
    obtain ⟨h0, -, h1, -⟩ := inBounds_iff.1 hb
    rw [Grid.get?_put, hp]
    by_cases he : ((i : Int), (j : Int)) = (x, y)
    · rw [Prod.mk.injEq] at he
      rw [if_pos (by omega), if_pos (Prod.ext he.1 he.2), Option.map_some]
    · rw [if_neg he, if_neg fun hc => he (by rw [Prod.mk.injEq]; omega)]
  · rename_i hb
    rw [if_neg]
    intro he
    rw [Prod.mk.injEq] at he
    exact hb (inBounds_iff.2 ⟨by omega, by omega, by omega, by omega⟩)

theorem plotAll_hasShape {g : Grid} {w h : Nat} (hs : Grid.hasShape g w h = true) (c : Color)
    (clip : Bool) (pts : List (Int × Int)) :
    Grid.hasShape (plotAll w h c g clip pts).1 w h = true := by
  induction pts generalizing g clip with
  | nil => exact hs
  | cons p pts ih => exact ih (plot_hasShape hs c p.1 p.2) _

/-- Plotting a list paints exactly its in-bounds points (R94). -/
theorem get?_plotAll {g : Grid} {w h : Nat} (hs : Grid.hasShape g w h = true) (c : Color)
    (clip : Bool) (pts : List (Int × Int)) (i j : Nat) (hi : i < w) (hj : j < h) :
    Grid.get? (plotAll w h c g clip pts).1 i j
      = if ((i : Int), (j : Int)) ∈ pts then some c else Grid.get? g i j := by
  induction pts generalizing g clip with
  | nil => simp [plotAll]
  | cons p pts ih =>
    obtain ⟨x, y⟩ := p
    rw [plotAll, ih (plot_hasShape hs c x y), get?_plot hs c x y i j hi hj]
    by_cases h1 : ((i : Int), (j : Int)) ∈ pts
    · simp [h1]
    · simp [h1]

/-- CLIP is set exactly when a point of the list is out of bounds (R94). -/
theorem plotAll_clip (w h : Nat) (c : Color) (g : Grid) (clip : Bool) (pts : List (Int × Int)) :
    (plotAll w h c g clip pts).2 = (clip || pts.any fun p => !inBounds w h p.1 p.2) := by
  induction pts generalizing g clip with
  | nil => simp [plotAll]
  | cons p pts ih =>
    rw [plotAll, ih, List.any_cons, Bool.or_assoc]
    congr 2
    unfold plot
    split <;> simp_all

/-! ### An upscaled grid (45_triangle_upscale.md R108, R110) -/

theorem flatMap_replicate_length {α β : Type} (l : List α) (f : Nat) (k : α → β) :
    (l.flatMap fun a => List.replicate f (k a)).length = l.length * f := by
  induction l with
  | nil => simp
  | cons a l ih => simp [ih, Nat.add_mul, Nat.add_comm]

theorem flatMap_replicate_getElem? {α β : Type} (l : List α) {f : Nat} (hf : 0 < f) (k : α → β)
    (i : Nat) : (l.flatMap fun a => List.replicate f (k a))[i]? = l[i / f]?.map k := by
  induction l generalizing i with
  | nil => simp
  | cons a l ih =>
    rw [List.flatMap_cons, List.getElem?_append]
    by_cases hi : i < f
    · simp [hi, Nat.div_eq_of_lt hi]
    · have hd : i / f = (i - f) / f + 1 := by
        have : i = (i - f) + f := by omega
        conv_lhs => rw [this, Nat.add_div_right _ hf]
      simp [hi, ih, hd]

theorem Grid.get?_upscale (g : Grid) {f : Nat} (hf : 0 < f) (x y : Nat) :
    Grid.get? (Grid.upscale g f) x y = Grid.get? g (x / f) (y / f) := by
  unfold Grid.get? Grid.upscale
  rw [flatMap_replicate_getElem? g hf]
  cases g[y / f]? with
  | none => rfl
  | some row => simpa using flatMap_replicate_getElem? row hf id x

theorem Grid.hasShape_upscale {g : Grid} {w h : Nat} (hs : Grid.hasShape g w h = true) (f : Nat) :
    Grid.hasShape (Grid.upscale g f) (w * f) (h * f) = true := by
  obtain ⟨hl, hr⟩ := Grid.hasShape_iff.1 hs
  refine Grid.hasShape_iff.2 ⟨by rw [Grid.upscale, flatMap_replicate_length, hl], fun row hrow => ?_⟩
  obtain ⟨r, hrg, hrow⟩ := List.mem_flatMap.1 hrow
  rw [List.eq_of_mem_replicate hrow]
  simp [hr r hrg]

end Sys2Proof.Machine
end

