-- ==== Sys2Proof/Laws/Memory.lean ====
section
/-! SUPPORT. What the byte buffers do: a read after a write, and that every write keeps the canonical
form and the capacity (log 4). -/

namespace Sys2Proof.Machine

open Sys2Proof

/-- A read after a write gives the byte written, and every other byte as before. -/
theorem Memory.find_write (m : Memory) (a : Nat) (b : Byte) (k : Nat) :
    Memory.find (Memory.write m a b) k = if k = a then some b else Memory.find m k := by
  induction m with
  | nil => simp [Memory.write, Memory.find, eq_comm]
  | cons c m ih =>
    obtain ⟨j, v⟩ := c
    unfold Memory.write
    split
    · by_cases h : k = a
      · simp [Memory.find, h]
      · simp [Memory.find, h, Ne.symm h]
    · split
      · subst a; by_cases h : k = j <;> simp [Memory.find, h, eq_comm]
      · by_cases h : j = k
        · subst h; simp [Memory.find, eq_comm, *]
        · simp [Memory.find, h, ih]

/-- An index none of the cells has reads as before. -/
theorem Memory.find_writeAll_of_notMem (m : Memory) (cells : List Host.Cell) (k : Nat)
    (h : ∀ c ∈ cells, c.1 ≠ k) : Memory.find (Memory.writeAll m cells) k = Memory.find m k := by
  induction cells generalizing m with
  | nil => rfl
  | cons c cells ih =>
    obtain ⟨a, b⟩ := c
    rw [Memory.writeAll, ih _ fun c hc => h c (List.mem_cons_of_mem _ hc), Memory.find_write,
      if_neg (fun e => h _ (List.mem_cons_self ..) e.symm)]

/-- A cell whose index no later cell has is what its index reads as. -/
theorem Memory.find_writeAll_of_mem (m : Memory) (cells : List Host.Cell) (k : Nat) (b : Byte)
    (hnd : (cells.map Prod.fst).Nodup) (h : (k, b) ∈ cells) :
    Memory.find (Memory.writeAll m cells) k = some b := by
  induction cells generalizing m with
  | nil => cases h
  | cons c cells ih =>
    obtain ⟨a, v⟩ := c
    rw [List.map_cons, List.nodup_cons] at hnd
    rw [Memory.writeAll]
    rcases List.mem_cons.1 h with h | h
    · cases h
      rw [Memory.find_writeAll_of_notMem, Memory.find_write, if_pos rfl]
      intro c hc e
      exact hnd.1 (List.mem_map.2 ⟨c, hc, e⟩)
    · exact ih _ hnd.2 h

/-- The least index of a list in canonical form bounds the others. -/
def Memory.above (k : Nat) (m : Memory) : Prop := ∀ c ∈ m, k < c.1

theorem Memory.wf_cons {a : Nat} {v : Byte} {m : Memory} :
    Memory.wf ((a, v) :: m) = true ↔ Memory.above a m ∧ Memory.wf m = true := by
  induction m generalizing a v with
  | nil => simp [Memory.wf, Memory.above]
  | cons c m ih =>
    obtain ⟨b, w⟩ := c
    simp only [Memory.wf, Bool.and_eq_true, decide_eq_true_eq, ih]
    constructor
    · rintro ⟨hab, hb, hm⟩
      refine ⟨fun c hc => ?_, hb, hm⟩
      rcases List.mem_cons.1 hc with rfl | hc
      · exact hab
      · exact hab.trans (hb c hc)
    · rintro ⟨ha, hb, hm⟩
      exact ⟨ha _ (List.mem_cons_self ..), hb, hm⟩

theorem Memory.mem_write {m : Memory} {a : Nat} {b : Byte} {c : Host.Cell}
    (h : c ∈ Memory.write m a b) : c = (a, b) ∨ c ∈ m := by
  induction m with
  | nil => simpa [Memory.write] using h
  | cons d m ih =>
    obtain ⟨j, v⟩ := d
    unfold Memory.write at h
    split at h
    · simpa using h
    · split at h <;> rcases List.mem_cons.1 h with h | h
      · exact .inl h
      · exact .inr (List.mem_cons_of_mem _ h)
      · exact .inr (h ▸ List.mem_cons_self ..)
      · exact (ih h).imp_right (List.mem_cons_of_mem _)

/-- A write keeps the canonical form. -/
theorem Memory.wf_write {m : Memory} (h : Memory.wf m = true) (a : Nat) (b : Byte) :
    Memory.wf (Memory.write m a b) = true := by
  induction m with
  | nil => rfl
  | cons c m ih =>
    obtain ⟨j, v⟩ := c
    obtain ⟨hj, hm⟩ := Memory.wf_cons.1 h
    unfold Memory.write
    split
    · refine Memory.wf_cons.2 ⟨fun c hc => ?_, h⟩
      rcases List.mem_cons.1 hc with rfl | hc
      · assumption
      · exact lt_trans ‹_› (hj c hc)
    · split
      · subst a; exact Memory.wf_cons.2 ⟨hj, hm⟩
      · refine Memory.wf_cons.2 ⟨fun c hc => ?_, ih hm⟩
        rcases Memory.mem_write hc with rfl | hc
        · simp only; omega
        · exact hj c hc

theorem Memory.wf_writeAll {m : Memory} (h : Memory.wf m = true) (cells : List Host.Cell) :
    Memory.wf (Memory.writeAll m cells) = true := by
  induction cells generalizing m with
  | nil => exact h
  | cons c cells ih => exact ih (Memory.wf_write h c.1 c.2)

/-- A write below the capacity keeps the buffer below it. -/
theorem Memory.below_write {m : Memory} {cap : Nat} (h : Memory.below m cap = true) {a : Nat}
    (ha : a < cap) (b : Byte) : Memory.below (Memory.write m a b) cap = true := by
  simp only [Memory.below, List.all_eq_true, decide_eq_true_eq] at h ⊢
  intro c hc
  rcases Memory.mem_write hc with rfl | hc
  · exact ha
  · exact h c hc

theorem Memory.below_writeAll {m : Memory} {cap : Nat} (h : Memory.below m cap = true)
    {cells : List Host.Cell} (hc : ∀ c ∈ cells, c.1 < cap) :
    Memory.below (Memory.writeAll m cells) cap = true := by
  induction cells generalizing m with
  | nil => exact h
  | cons c cells ih =>
    exact ih (Memory.below_write h (hc c (List.mem_cons_self ..)) c.2)
      fun d hd => hc d (List.mem_cons_of_mem _ hd)

/-! ### Little-endian fields -/

/-- The cells of an n-byte field are at `o`, …, `o + n - 1`. -/
theorem mem_leCells {o n v : Nat} {c : Host.Cell} :
    c ∈ leCells o n v ↔ ∃ i < n, c = (o + i, BitVec.ofNat 8 (v / 2 ^ (8 * i))) := by
  simp [leCells, eq_comm]

theorem leCells_fst (o n v : Nat) : (leCells o n v).map Prod.fst = (List.range n).map (o + ·) := by
  simp [leCells, Function.comp_def]

theorem leCells_nodup (o n v : Nat) : ((leCells o n v).map Prod.fst).Nodup := by
  rw [leCells_fst]
  exact List.Nodup.map (fun a b h => by simpa using h) List.nodup_range

/-- Two byte functions that agree on the field's bytes give one sum. -/
theorem leSum_congr {f g : Nat → Byte} {i n : Nat} (h : ∀ k < n, f (i + k) = g (i + k)) :
    leSum f i n = leSum g i n := by
  induction n with
  | zero => rfl
  | succ n ih => simp only [leSum, ih fun k hk => h k (by omega), h n (by omega)]

/-- An n-byte field holds a value below `2^(8n)`. -/
theorem leSum_lt (f : Nat → Byte) (i n : Nat) : leSum f i n < 2 ^ (8 * n) := by
  induction n with
  | zero => simp [leSum]
  | succ n ih =>
    have hb : (f (i + n)).toNat ≤ 255 := by have := (f (i + n)).isLt; omega
    have hm := Nat.mul_le_mul_right (2 ^ (8 * n)) hb
    have he : 2 ^ (8 * (n + 1)) = 256 * 2 ^ (8 * n) := by rw [Nat.mul_succ, Nat.pow_add]; omega
    simp only [leSum, he]
    omega

/-- Byte k of what n bytes read as (R45, R71). -/
theorem leSum_byte {f : Nat → Byte} {i n k : Nat} (hk : k < n) :
    leSum f i n / 2 ^ (8 * k) % 256 = (f (i + k)).toNat := by
  induction n with
  | zero => omega
  | succ n ih =>
    rw [leSum]
    rcases Nat.lt_succ_iff_lt_or_eq.1 hk with h | rfl
    · rw [show 8 * n = 8 * k + (8 + 8 * (n - k - 1)) by omega, Nat.pow_add, Nat.pow_add,
        show (f (i + n)).toNat * (2 ^ (8 * k) * (2 ^ 8 * 2 ^ (8 * (n - k - 1))))
          = (f (i + n)).toNat * 2 ^ (8 * (n - k - 1)) * 256 * 2 ^ (8 * k) by ring,
        Nat.add_mul_div_right _ _ (by positivity), Nat.add_mul_mod_self_right]
      exact ih h
    · rw [Nat.add_mul_div_right _ _ (by positivity), Nat.div_eq_of_lt (leSum_lt f i k),
        Nat.zero_add]
      exact Nat.mod_eq_of_lt (f (i + k)).isLt

/-- Reading back the bytes of a value gives the value (R71, R72, R45). -/
theorem leSum_of_bytes (f : Nat → Byte) (i n v : Nat)
    (h : ∀ k < n, f (i + k) = BitVec.ofNat 8 (v / 2 ^ (8 * k))) :
    leSum f i n = v % 2 ^ (8 * n) := by
  induction n with
  | zero => simp [leSum, Nat.mod_one]
  | succ n ih =>
    have he : 2 ^ (8 * (n + 1)) = 2 ^ (8 * n) * 2 ^ 8 := by rw [Nat.mul_succ, Nat.pow_add]
    rw [leSum, ih fun k hk => h k (by omega), h n (by omega), BitVec.toNat_ofNat, he,
      Nat.mod_mul, Nat.mul_comm (_ % 2 ^ 8)]

end Sys2Proof.Machine
end

