-- ==== Sys2Proof/Laws/Codec.lean ====
section
/-! SUPPORT. The arithmetic of the BMP rows (40_codec.md R73 to R75), what the encoder writes where
(R85), and what the header fields of a stream are (R71). -/

namespace Sys2Proof.Machine

open Sys2Proof

theorem depthOk_iff {b : Nat} : depthOk b = true ↔ b = 24 ∨ b = 32 := by simp [depthOk]

/-- R73: `Pad(w, 24)` equals `w mod 4`. -/
theorem rowPad_24 (w : Nat) : rowPad w 24 = w % 4 := by simp only [rowPad, if_pos]; omega

theorem rowPad_32 (w : Nat) : rowPad w 32 = 0 := by simp [rowPad]

theorem stride_24 (w : Nat) : stride w 24 = w * 3 + w % 4 := by
  simp [stride, rowPad_24, bpp8]

theorem stride_32 (w : Nat) : stride w 32 = w * 4 := by simp [stride, rowPad_32, bpp8]

/-- 00_scope.md R7: the padded row length is at most four bytes a pixel. -/
theorem stride_le {bpp : Nat} (hb : depthOk bpp = true) (w : Nat) : stride w bpp ≤ 4 * w := by
  rcases depthOk_iff.1 hb with rfl | rfl
  · rw [stride_24]; omega
  · rw [stride_32]; omega

/-- R7: an encoded image takes at most `4 * w * h` bytes of pixel data. -/
theorem pixBytes_le {bpp : Nat} (hb : depthOk bpp = true) (w h : Nat) :
    pixBytes w h bpp ≤ 4 * (w * h) := by
  rw [← Nat.mul_assoc]
  exact Nat.mul_le_mul_right h (stride_le hb w)

/-- The constraints of R6, one by one. -/
structure ParamsFacts (p : Params) : Prop where
  maxW_pos : 1 ≤ p.maxW
  maxW : p.maxW < 2 ^ 32
  maxH_pos : 1 ≤ p.maxH
  maxH : p.maxH < 2 ^ 32
  maxPixels_pos : 1 ≤ p.maxPixels
  maxPixels : p.maxPixels ≤ p.maxW * p.maxH
  encoded : 54 + 4 * p.maxPixels ≤ 2 ^ 32 - 1
  inCap_min : 54 ≤ p.inCap
  inCap : p.inCap ≤ 2 ^ 32 - 1
  outCap_min : 54 + 4 * p.maxPixels ≤ p.outCap
  outCap : p.outCap ≤ 2 ^ 32 - 1
  regAligned : p.regBase % 4096 = 0
  inAligned : p.inBase % 4 = 0
  outAligned : p.outBase % 4 = 0
  regInside : p.regBase + 4096 ≤ 2 ^ 32
  inInside : p.inBase + p.inCap ≤ 2 ^ 32
  outInside : p.outBase + p.outCap ≤ 2 ^ 32
  regIn : p.regBase + 4096 ≤ p.inBase ∨ p.inBase + p.inCap ≤ p.regBase
  regOut : p.regBase + 4096 ≤ p.outBase ∨ p.outBase + p.outCap ≤ p.regBase
  inOut : p.inBase + p.inCap ≤ p.outBase ∨ p.outBase + p.outCap ≤ p.inBase

theorem Params.facts {p : Params} (h : p.wf = true) : ParamsFacts p := by
  unfold Params.wf Params.extentsOk Params.capsOk Params.windowsOk Params.apart
    Params.regWindow at h
  simp only [Bool.and_eq_true, Bool.or_eq_true, decide_eq_true_eq] at h
  obtain ⟨⟨⟨⟨⟨⟨⟨⟨a1, a2⟩, a3⟩, a4⟩, a5⟩, a6⟩, a7⟩, ⟨⟨b1, b2⟩, b3⟩, b4⟩,
    ⟨⟨⟨⟨⟨⟨⟨c1, c2⟩, c3⟩, c4⟩, c5⟩, c6⟩, c7⟩, c8⟩, c9⟩ := h
  exact ⟨a1, a2, a3, a4, a5, a6, a7, b1, b2, b3, b4, c1, c2, c3, c4, c5, c6, c7, c8, c9⟩

theorem overCapacity_false {p : Params} {w h : Nat} :
    overCapacity p w h = false ↔ w ≤ p.maxW ∧ h ≤ p.maxH ∧ w * h ≤ p.maxPixels := by
  simp [overCapacity, and_assoc]

theorem trunc32_toNat {n : Nat} (h : n < 2 ^ 32) : (trunc32 n).toNat = n := by
  rw [trunc32, BitVec.toNat_ofNat, Nat.mod_eq_of_lt h]

/-- R7, R79: the size fields of an image within capacity never wrap. -/
theorem pixSize_toNat {p : Params} (hp : p.wf = true) {w h bpp : Nat} (hb : depthOk bpp = true)
    (hc : overCapacity p w h = false) : (pixSize w h bpp).toNat = w * h * (bpp / 8) := by
  have f := Params.facts hp
  obtain ⟨-, -, hm⟩ := overCapacity_false.1 hc
  have he := f.encoded
  rw [pixSize, trunc32_toNat, bpp8]
  rcases depthOk_iff.1 hb with rfl | rfl <;> simp only [bpp8] <;> omega

theorem fileBytes_toNat {p : Params} (hp : p.wf = true) {w h bpp : Nat} (hb : depthOk bpp = true)
    (hc : overCapacity p w h = false) : (fileBytes w h bpp).toNat = 54 + w * h * (bpp / 8) := by
  have f := Params.facts hp
  obtain ⟨-, -, hm⟩ := overCapacity_false.1 hc
  have he := f.encoded
  rw [fileBytes, pixSize_toNat hp hb hc, trunc32_toNat]
  rcases depthOk_iff.1 hb with rfl | rfl <;> omega

/-! ### The image within its capacity (10_state.md R32) -/

/-- R32 for VALID = 1, one by one. -/
structure ImageFacts (s : State) : Prop where
  signature : s.hdr.signature = 0x4D42
  depth : depthOk s.depth = true
  compression : s.hdr.compression = 0
  capacity : overCapacity s.cfg s.width s.height = false
  shape : Grid.hasShape s.pb s.width s.height = true

theorem State.imageOk_iff {s : State} : s.imageOk = true ↔ ImageFacts s := by
  simp only [State.imageOk, Bool.and_eq_true, beq_iff_eq, Bool.not_eq_true']
  exact ⟨fun ⟨⟨⟨⟨a, b⟩, c⟩, d⟩, e⟩ => ⟨a, b, c, d, e⟩,
    fun ⟨a, b, c, d, e⟩ => ⟨⟨⟨⟨a, b⟩, c⟩, d⟩, e⟩⟩

/-- R7, R87: the encoded image fits the output buffer. -/
theorem State.encodedLen_le {s : State} (hp : s.cfg.wf = true) (hi : ImageFacts s) :
    s.encodedLen ≤ s.cfg.outCap := by
  have f := Params.facts hp
  have h1 := pixBytes_le hi.depth s.width s.height
  obtain ⟨-, -, hm⟩ := overCapacity_false.1 hi.capacity
  have h2 := f.outCap_min
  unfold State.encodedLen
  omega

/-! ### The cells the encoder writes (R85): indexes 0, 1, 2, … in order -/

theorem Header.cells_fst (h : Header) : h.cells.map Prod.fst = List.range' 0 54 := by
  simp only [Header.cells, List.map_append, leCells_fst]
  decide

theorem pixelCells_fst {bpp : Nat} (hb : depthOk bpp = true) (o : Nat) (c : Color) :
    (pixelCells bpp o c).map Prod.fst = List.range' o (bpp8 bpp) := by
  rcases depthOk_iff.1 hb with rfl | rfl <;> simp [pixelCells, bpp8, List.range'_succ]

theorem rowCells_fst {bpp : Nat} (hb : depthOk bpp = true) (w y x : Nat) (row : List Color) :
    (rowCells w bpp y x row).map Prod.fst
      = List.range' (pixOff w bpp x y) (row.length * bpp8 bpp) := by
  induction row generalizing x with
  | nil => simp [rowCells]
  | cons c row ih =>
    have e : pixOff w bpp (x + 1) y = pixOff w bpp x y + bpp8 bpp := by
      simp only [pixOff, Nat.add_mul, Nat.one_mul]; omega
    rw [rowCells, List.map_append, pixelCells_fst hb, ih, e, List.length_cons, Nat.add_mul,
      Nat.one_mul, Nat.add_comm (row.length * bpp8 bpp), ← List.range'_append_1]

theorem padCells_fst (w bpp y : Nat) :
    (padCells w bpp y).map Prod.fst
      = List.range' (54 + y * stride w bpp + w * bpp8 bpp) (rowPad w bpp) := by
  simp only [padCells, List.map_map, Function.comp_def]
  rw [List.range_eq_range', List.map_add_range']
  simp

theorem gridCells_fst {bpp : Nat} (hb : depthOk bpp = true) (w y : Nat) (g : Grid)
    (hg : ∀ row ∈ g, row.length = w) :
    (gridCells w bpp y g).map Prod.fst
      = List.range' (54 + y * stride w bpp) (g.length * stride w bpp) := by
  induction g generalizing y with
  | nil => simp [gridCells]
  | cons row g ih =>
    have hrow := hg row (List.mem_cons_self ..)
    have e0 : pixOff w bpp 0 y = 54 + y * stride w bpp := by simp [pixOff]
    have e1 : 54 + (y + 1) * stride w bpp = 54 + y * stride w bpp + (w * bpp8 bpp + rowPad w bpp) := by
      rw [Nat.add_mul, Nat.one_mul, ← Nat.add_assoc]; rfl
    have e2 : (row :: g).length * stride w bpp
        = w * bpp8 bpp + rowPad w bpp + g.length * stride w bpp := by
      rw [List.length_cons, Nat.add_mul, Nat.one_mul, Nat.add_comm]; rfl
    rw [gridCells, List.map_append, List.map_append, rowCells_fst hb, padCells_fst,
      ih _ fun r hr => hg r (List.mem_cons_of_mem _ hr), hrow, e0, e1, e2, List.range'_append_1,
      List.range'_append_1]

/-- R85, R87: ENCODE writes bytes 0 .. OUT_LEN-1, each once, in order. -/
theorem State.encodedCells_fst {s : State} (hi : ImageFacts s) :
    s.encodedCells.map Prod.fst = List.range s.encodedLen := by
  obtain ⟨hl, hr⟩ := Grid.hasShape_iff.1 hi.shape
  rw [State.encodedCells, List.map_append, Header.cells_fst, gridCells_fst hi.depth _ _ _ hr,
    List.range_eq_range', State.encodedLen, pixBytes, hl, Nat.zero_mul, Nat.add_zero,
    Nat.mul_comm s.height]
  have := List.range'_append_1 (s := 0) (m := 54) (n := stride s.width s.depth * s.height)
  rwa [Nat.zero_add] at this

theorem State.encodedCells_lt {s : State} (hi : ImageFacts s) {c : Host.Cell}
    (hc : c ∈ s.encodedCells) : c.1 < s.encodedLen := by
  have := List.mem_map_of_mem (f := Prod.fst) hc
  rw [State.encodedCells_fst hi] at this
  exact List.mem_range.1 this

/-- R85: a byte ENCODE writes is what OUT_BUF holds there afterwards. -/
theorem State.outByte_of_mem {s : State} (hi : ImageFacts s) {k : Nat} {b : Byte}
    (h : (k, b) ∈ s.encodedCells) (n : Word) : (s.putOutput s.encodedCells n).outByte k = b := by
  have hnd : (s.encodedCells.map Prod.fst).Nodup := by
    rw [State.encodedCells_fst hi]; exact List.nodup_range
  simp [State.outByte, State.putOutput, Memory.find_writeAll_of_mem _ _ _ _ hnd h]

/-- R41, R85: every byte at OUT_LEN and above keeps its value. -/
theorem State.outByte_beyond {s : State} (hi : ImageFacts s) {k : Nat} (h : s.encodedLen ≤ k)
    (n : Word) : (s.putOutput s.encodedCells n).outByte k = s.outByte k := by
  have hne : ∀ c ∈ s.encodedCells, c.1 ≠ k := fun c hc => by
    have := State.encodedCells_lt hi hc; omega
  simp [State.outByte, State.putOutput, Memory.find_writeAll_of_notMem _ _ _ hne]

theorem mem_rowCells {w bpp y x i : Nat} {row : List Color} {p : Color} {c : Host.Cell}
    (hp : row[i]? = some p) (hc : c ∈ pixelCells bpp (pixOff w bpp (x + i) y) p) :
    c ∈ rowCells w bpp y x row := by
  induction row generalizing x i with
  | nil => simp at hp
  | cons q row ih =>
    rw [rowCells, List.mem_append]
    cases i with
    | zero => simp only [List.getElem?_cons_zero, Option.some.injEq] at hp; subst hp; exact .inl hc
    | succ i =>
      refine .inr (ih (x := x + 1) (i := i) (by simpa using hp) ?_)
      rwa [Nat.add_assoc, Nat.add_comm 1]

theorem mem_gridCells {w bpp y j : Nat} {g : Grid} {row : List Color} {c : Host.Cell}
    (hr : g[j]? = some row)
    (hc : c ∈ rowCells w bpp (y + j) 0 row ∨ c ∈ padCells w bpp (y + j)) :
    c ∈ gridCells w bpp y g := by
  induction g generalizing y j with
  | nil => simp at hr
  | cons r g ih =>
    rw [gridCells, List.mem_append, List.mem_append]
    cases j with
    | zero => simp only [List.getElem?_cons_zero, Option.some.injEq] at hr; subst hr; exact .inl hc
    | succ j =>
      refine .inr (ih (y := y + 1) (j := j) (by simpa using hr) ?_)
      rwa [Nat.add_assoc, Nat.add_comm 1]

/-- R85: the bytes of pixel (x, y) are among the cells ENCODE writes. -/
theorem State.pixelCells_subset {s : State} {x y : Nat} {p : Color} {c : Host.Cell}
    (hp : Grid.get? s.pb x y = some p) (hc : c ∈ pixelCells s.depth (pixOff s.width s.depth x y) p) :
    c ∈ s.encodedCells := by
  obtain ⟨row, hr, hx⟩ := Option.bind_eq_some_iff.1 hp
  refine List.mem_append_right _ (mem_gridCells hr (.inl (mem_rowCells hx ?_)))
  simpa using hc

/-- R78, R85: so are the zero padding bytes of row y. -/
theorem State.padCells_subset {s : State} (hi : ImageFacts s) {y : Nat} (hy : y < s.height)
    {c : Host.Cell} (hc : c ∈ padCells s.width s.depth y) : c ∈ s.encodedCells := by
  obtain ⟨hl, -⟩ := Grid.hasShape_iff.1 hi.shape
  refine List.mem_append_right _ (mem_gridCells (List.getElem?_eq_getElem (hl ▸ hy)) (.inr ?_))
  simpa using hc

/-- R72, R85: so are the header's bytes. -/
theorem State.headerCells_subset {s : State} {c : Host.Cell} (hc : c ∈ s.hdr.cells) :
    c ∈ s.encodedCells := List.mem_append_left _ hc

end Sys2Proof.Machine
end

