-- ==== Sys2Proof/Laws/State.lean ====
section
/-! SUPPORT. One lemma per field per named update of the state and of STATUS, each true by rfl. -/

namespace Sys2Proof.Machine

open Sys2Proof


/-! ### `State.putImage` -/

@[simp] theorem State.putImage_cfg (s : State) (h : Header) (g : Grid) :
    (s.putImage h g).cfg = s.cfg := rfl
@[simp] theorem State.putImage_draws (s : State) (h : Header) (g : Grid) :
    (s.putImage h g).draws = s.draws := rfl
@[simp] theorem State.putImage_args (s : State) (h : Header) (g : Grid) :
    (s.putImage h g).args = s.args := rfl
@[simp] theorem State.putImage_cmd (s : State) (h : Header) (g : Grid) :
    (s.putImage h g).cmd = s.cmd := rfl
@[simp] theorem State.putImage_status (s : State) (h : Header) (g : Grid) :
    (s.putImage h g).status = s.status.withImage := rfl
@[simp] theorem State.putImage_irqEn (s : State) (h : Header) (g : Grid) :
    (s.putImage h g).irqEn = s.irqEn := rfl
@[simp] theorem State.putImage_inLen (s : State) (h : Header) (g : Grid) :
    (s.putImage h g).inLen = s.inLen := rfl
@[simp] theorem State.putImage_outLen (s : State) (h : Header) (g : Grid) :
    (s.putImage h g).outLen = s.outLen := rfl
@[simp] theorem State.putImage_result (s : State) (h : Header) (g : Grid) :
    (s.putImage h g).result = s.result := rfl
@[simp] theorem State.putImage_hdr (s : State) (h : Header) (g : Grid) :
    (s.putImage h g).hdr = h := rfl
@[simp] theorem State.putImage_pb (s : State) (h : Header) (g : Grid) :
    (s.putImage h g).pb = g := rfl
@[simp] theorem State.putImage_inBuf (s : State) (h : Header) (g : Grid) :
    (s.putImage h g).inBuf = s.inBuf := rfl
@[simp] theorem State.putImage_outBuf (s : State) (h : Header) (g : Grid) :
    (s.putImage h g).outBuf = s.outBuf := rfl
@[simp] theorem State.putImage_latch (s : State) (h : Header) (g : Grid) :
    (s.putImage h g).latch = s.latch := rfl
@[simp] theorem State.putImage_script (s : State) (h : Header) (g : Grid) :
    (s.putImage h g).script = s.script := rfl
@[simp] theorem State.putImage_turns (s : State) (h : Header) (g : Grid) :
    (s.putImage h g).turns = s.turns := rfl
@[simp] theorem State.putImage_busLog (s : State) (h : Header) (g : Grid) :
    (s.putImage h g).busLog = s.busLog := rfl

/-! ### `State.putGrid` -/

@[simp] theorem State.putGrid_cfg (s : State) (g : Grid) :
    (s.putGrid g).cfg = s.cfg := rfl
@[simp] theorem State.putGrid_draws (s : State) (g : Grid) :
    (s.putGrid g).draws = s.draws := rfl
@[simp] theorem State.putGrid_args (s : State) (g : Grid) :
    (s.putGrid g).args = s.args := rfl
@[simp] theorem State.putGrid_cmd (s : State) (g : Grid) :
    (s.putGrid g).cmd = s.cmd := rfl
@[simp] theorem State.putGrid_status (s : State) (g : Grid) :
    (s.putGrid g).status = s.status := rfl
@[simp] theorem State.putGrid_irqEn (s : State) (g : Grid) :
    (s.putGrid g).irqEn = s.irqEn := rfl
@[simp] theorem State.putGrid_inLen (s : State) (g : Grid) :
    (s.putGrid g).inLen = s.inLen := rfl
@[simp] theorem State.putGrid_outLen (s : State) (g : Grid) :
    (s.putGrid g).outLen = s.outLen := rfl
@[simp] theorem State.putGrid_result (s : State) (g : Grid) :
    (s.putGrid g).result = s.result := rfl
@[simp] theorem State.putGrid_hdr (s : State) (g : Grid) :
    (s.putGrid g).hdr = s.hdr := rfl
@[simp] theorem State.putGrid_pb (s : State) (g : Grid) :
    (s.putGrid g).pb = g := rfl
@[simp] theorem State.putGrid_inBuf (s : State) (g : Grid) :
    (s.putGrid g).inBuf = s.inBuf := rfl
@[simp] theorem State.putGrid_outBuf (s : State) (g : Grid) :
    (s.putGrid g).outBuf = s.outBuf := rfl
@[simp] theorem State.putGrid_latch (s : State) (g : Grid) :
    (s.putGrid g).latch = s.latch := rfl
@[simp] theorem State.putGrid_script (s : State) (g : Grid) :
    (s.putGrid g).script = s.script := rfl
@[simp] theorem State.putGrid_turns (s : State) (g : Grid) :
    (s.putGrid g).turns = s.turns := rfl
@[simp] theorem State.putGrid_busLog (s : State) (g : Grid) :
    (s.putGrid g).busLog = s.busLog := rfl

/-! ### `State.putScaled` -/

@[simp] theorem State.putScaled_cfg (s : State) (h : Header) (g : Grid) :
    (s.putScaled h g).cfg = s.cfg := rfl
@[simp] theorem State.putScaled_draws (s : State) (h : Header) (g : Grid) :
    (s.putScaled h g).draws = s.draws := rfl
@[simp] theorem State.putScaled_args (s : State) (h : Header) (g : Grid) :
    (s.putScaled h g).args = s.args := rfl
@[simp] theorem State.putScaled_cmd (s : State) (h : Header) (g : Grid) :
    (s.putScaled h g).cmd = s.cmd := rfl
@[simp] theorem State.putScaled_status (s : State) (h : Header) (g : Grid) :
    (s.putScaled h g).status = s.status := rfl
@[simp] theorem State.putScaled_irqEn (s : State) (h : Header) (g : Grid) :
    (s.putScaled h g).irqEn = s.irqEn := rfl
@[simp] theorem State.putScaled_inLen (s : State) (h : Header) (g : Grid) :
    (s.putScaled h g).inLen = s.inLen := rfl
@[simp] theorem State.putScaled_outLen (s : State) (h : Header) (g : Grid) :
    (s.putScaled h g).outLen = s.outLen := rfl
@[simp] theorem State.putScaled_result (s : State) (h : Header) (g : Grid) :
    (s.putScaled h g).result = s.result := rfl
@[simp] theorem State.putScaled_hdr (s : State) (h : Header) (g : Grid) :
    (s.putScaled h g).hdr = h := rfl
@[simp] theorem State.putScaled_pb (s : State) (h : Header) (g : Grid) :
    (s.putScaled h g).pb = g := rfl
@[simp] theorem State.putScaled_inBuf (s : State) (h : Header) (g : Grid) :
    (s.putScaled h g).inBuf = s.inBuf := rfl
@[simp] theorem State.putScaled_outBuf (s : State) (h : Header) (g : Grid) :
    (s.putScaled h g).outBuf = s.outBuf := rfl
@[simp] theorem State.putScaled_latch (s : State) (h : Header) (g : Grid) :
    (s.putScaled h g).latch = s.latch := rfl
@[simp] theorem State.putScaled_script (s : State) (h : Header) (g : Grid) :
    (s.putScaled h g).script = s.script := rfl
@[simp] theorem State.putScaled_turns (s : State) (h : Header) (g : Grid) :
    (s.putScaled h g).turns = s.turns := rfl
@[simp] theorem State.putScaled_busLog (s : State) (h : Header) (g : Grid) :
    (s.putScaled h g).busLog = s.busLog := rfl

/-! ### `State.putResult` -/

@[simp] theorem State.putResult_cfg (s : State) (c : Color) :
    (s.putResult c).cfg = s.cfg := rfl
@[simp] theorem State.putResult_draws (s : State) (c : Color) :
    (s.putResult c).draws = s.draws := rfl
@[simp] theorem State.putResult_args (s : State) (c : Color) :
    (s.putResult c).args = s.args := rfl
@[simp] theorem State.putResult_cmd (s : State) (c : Color) :
    (s.putResult c).cmd = s.cmd := rfl
@[simp] theorem State.putResult_status (s : State) (c : Color) :
    (s.putResult c).status = s.status := rfl
@[simp] theorem State.putResult_irqEn (s : State) (c : Color) :
    (s.putResult c).irqEn = s.irqEn := rfl
@[simp] theorem State.putResult_inLen (s : State) (c : Color) :
    (s.putResult c).inLen = s.inLen := rfl
@[simp] theorem State.putResult_outLen (s : State) (c : Color) :
    (s.putResult c).outLen = s.outLen := rfl
@[simp] theorem State.putResult_result (s : State) (c : Color) :
    (s.putResult c).result = c := rfl
@[simp] theorem State.putResult_hdr (s : State) (c : Color) :
    (s.putResult c).hdr = s.hdr := rfl
@[simp] theorem State.putResult_pb (s : State) (c : Color) :
    (s.putResult c).pb = s.pb := rfl
@[simp] theorem State.putResult_inBuf (s : State) (c : Color) :
    (s.putResult c).inBuf = s.inBuf := rfl
@[simp] theorem State.putResult_outBuf (s : State) (c : Color) :
    (s.putResult c).outBuf = s.outBuf := rfl
@[simp] theorem State.putResult_latch (s : State) (c : Color) :
    (s.putResult c).latch = s.latch := rfl
@[simp] theorem State.putResult_script (s : State) (c : Color) :
    (s.putResult c).script = s.script := rfl
@[simp] theorem State.putResult_turns (s : State) (c : Color) :
    (s.putResult c).turns = s.turns := rfl
@[simp] theorem State.putResult_busLog (s : State) (c : Color) :
    (s.putResult c).busLog = s.busLog := rfl

/-! ### `State.putOutput` -/

@[simp] theorem State.putOutput_cfg (s : State) (l : List Host.Cell) (n : Word) :
    (s.putOutput l n).cfg = s.cfg := rfl
@[simp] theorem State.putOutput_draws (s : State) (l : List Host.Cell) (n : Word) :
    (s.putOutput l n).draws = s.draws := rfl
@[simp] theorem State.putOutput_args (s : State) (l : List Host.Cell) (n : Word) :
    (s.putOutput l n).args = s.args := rfl
@[simp] theorem State.putOutput_cmd (s : State) (l : List Host.Cell) (n : Word) :
    (s.putOutput l n).cmd = s.cmd := rfl
@[simp] theorem State.putOutput_status (s : State) (l : List Host.Cell) (n : Word) :
    (s.putOutput l n).status = s.status := rfl
@[simp] theorem State.putOutput_irqEn (s : State) (l : List Host.Cell) (n : Word) :
    (s.putOutput l n).irqEn = s.irqEn := rfl
@[simp] theorem State.putOutput_inLen (s : State) (l : List Host.Cell) (n : Word) :
    (s.putOutput l n).inLen = s.inLen := rfl
@[simp] theorem State.putOutput_outLen (s : State) (l : List Host.Cell) (n : Word) :
    (s.putOutput l n).outLen = n := rfl
@[simp] theorem State.putOutput_result (s : State) (l : List Host.Cell) (n : Word) :
    (s.putOutput l n).result = s.result := rfl
@[simp] theorem State.putOutput_hdr (s : State) (l : List Host.Cell) (n : Word) :
    (s.putOutput l n).hdr = s.hdr := rfl
@[simp] theorem State.putOutput_pb (s : State) (l : List Host.Cell) (n : Word) :
    (s.putOutput l n).pb = s.pb := rfl
@[simp] theorem State.putOutput_inBuf (s : State) (l : List Host.Cell) (n : Word) :
    (s.putOutput l n).inBuf = s.inBuf := rfl
@[simp] theorem State.putOutput_outBuf (s : State) (l : List Host.Cell) (n : Word) :
    (s.putOutput l n).outBuf = Memory.writeAll s.outBuf l := rfl
@[simp] theorem State.putOutput_latch (s : State) (l : List Host.Cell) (n : Word) :
    (s.putOutput l n).latch = s.latch := rfl
@[simp] theorem State.putOutput_script (s : State) (l : List Host.Cell) (n : Word) :
    (s.putOutput l n).script = s.script := rfl
@[simp] theorem State.putOutput_turns (s : State) (l : List Host.Cell) (n : Word) :
    (s.putOutput l n).turns = s.turns := rfl
@[simp] theorem State.putOutput_busLog (s : State) (l : List Host.Cell) (n : Word) :
    (s.putOutput l n).busLog = s.busLog := rfl

/-! ### `State.finish` -/

@[simp] theorem State.finish_cfg (s : State) (e : ResultCode) (f : ResultFlags) :
    (s.finish e f).cfg = s.cfg := rfl
@[simp] theorem State.finish_draws (s : State) (e : ResultCode) (f : ResultFlags) :
    (s.finish e f).draws = s.draws := rfl
@[simp] theorem State.finish_args (s : State) (e : ResultCode) (f : ResultFlags) :
    (s.finish e f).args = s.args := rfl
@[simp] theorem State.finish_cmd (s : State) (e : ResultCode) (f : ResultFlags) :
    (s.finish e f).cmd = s.cmd := rfl
@[simp] theorem State.finish_status (s : State) (e : ResultCode) (f : ResultFlags) :
    (s.finish e f).status = s.status.completed e f := rfl
@[simp] theorem State.finish_irqEn (s : State) (e : ResultCode) (f : ResultFlags) :
    (s.finish e f).irqEn = s.irqEn := rfl
@[simp] theorem State.finish_inLen (s : State) (e : ResultCode) (f : ResultFlags) :
    (s.finish e f).inLen = s.inLen := rfl
@[simp] theorem State.finish_outLen (s : State) (e : ResultCode) (f : ResultFlags) :
    (s.finish e f).outLen = s.outLen := rfl
@[simp] theorem State.finish_result (s : State) (e : ResultCode) (f : ResultFlags) :
    (s.finish e f).result = s.result := rfl
@[simp] theorem State.finish_hdr (s : State) (e : ResultCode) (f : ResultFlags) :
    (s.finish e f).hdr = s.hdr := rfl
@[simp] theorem State.finish_pb (s : State) (e : ResultCode) (f : ResultFlags) :
    (s.finish e f).pb = s.pb := rfl
@[simp] theorem State.finish_inBuf (s : State) (e : ResultCode) (f : ResultFlags) :
    (s.finish e f).inBuf = s.inBuf := rfl
@[simp] theorem State.finish_outBuf (s : State) (e : ResultCode) (f : ResultFlags) :
    (s.finish e f).outBuf = s.outBuf := rfl
@[simp] theorem State.finish_latch (s : State) (e : ResultCode) (f : ResultFlags) :
    (s.finish e f).latch = s.latch := rfl
@[simp] theorem State.finish_script (s : State) (e : ResultCode) (f : ResultFlags) :
    (s.finish e f).script = s.script := rfl
@[simp] theorem State.finish_turns (s : State) (e : ResultCode) (f : ResultFlags) :
    (s.finish e f).turns = s.turns := rfl
@[simp] theorem State.finish_busLog (s : State) (e : ResultCode) (f : ResultFlags) :
    (s.finish e f).busLog = s.busLog := rfl

/-! ### `State.raise` -/

@[simp] theorem State.raise_cfg (s : State) (e : ResultCode) :
    (s.raise e).cfg = s.cfg := rfl
@[simp] theorem State.raise_draws (s : State) (e : ResultCode) :
    (s.raise e).draws = s.draws := rfl
@[simp] theorem State.raise_args (s : State) (e : ResultCode) :
    (s.raise e).args = s.args := rfl
@[simp] theorem State.raise_cmd (s : State) (e : ResultCode) :
    (s.raise e).cmd = s.cmd := rfl
@[simp] theorem State.raise_status (s : State) (e : ResultCode) :
    (s.raise e).status = s.status.completed e {} := rfl
@[simp] theorem State.raise_irqEn (s : State) (e : ResultCode) :
    (s.raise e).irqEn = s.irqEn := rfl
@[simp] theorem State.raise_inLen (s : State) (e : ResultCode) :
    (s.raise e).inLen = s.inLen := rfl
@[simp] theorem State.raise_outLen (s : State) (e : ResultCode) :
    (s.raise e).outLen = s.outLen := rfl
@[simp] theorem State.raise_result (s : State) (e : ResultCode) :
    (s.raise e).result = s.result := rfl
@[simp] theorem State.raise_hdr (s : State) (e : ResultCode) :
    (s.raise e).hdr = s.hdr := rfl
@[simp] theorem State.raise_pb (s : State) (e : ResultCode) :
    (s.raise e).pb = s.pb := rfl
@[simp] theorem State.raise_inBuf (s : State) (e : ResultCode) :
    (s.raise e).inBuf = s.inBuf := rfl
@[simp] theorem State.raise_outBuf (s : State) (e : ResultCode) :
    (s.raise e).outBuf = s.outBuf := rfl
@[simp] theorem State.raise_latch (s : State) (e : ResultCode) :
    (s.raise e).latch = s.latch := rfl
@[simp] theorem State.raise_script (s : State) (e : ResultCode) :
    (s.raise e).script = s.script := rfl
@[simp] theorem State.raise_turns (s : State) (e : ResultCode) :
    (s.raise e).turns = s.turns := rfl
@[simp] theorem State.raise_busLog (s : State) (e : ResultCode) :
    (s.raise e).busLog = s.busLog := rfl

/-! ### `State.acceptCmd` -/

@[simp] theorem State.acceptCmd_cfg (s : State) (v : Word) :
    (s.acceptCmd v).cfg = s.cfg := rfl
@[simp] theorem State.acceptCmd_draws (s : State) (v : Word) :
    (s.acceptCmd v).draws = s.draws := rfl
@[simp] theorem State.acceptCmd_args (s : State) (v : Word) :
    (s.acceptCmd v).args = s.args := rfl
@[simp] theorem State.acceptCmd_cmd (s : State) (v : Word) :
    (s.acceptCmd v).cmd = v := rfl
@[simp] theorem State.acceptCmd_status (s : State) (v : Word) :
    (s.acceptCmd v).status = s.status.accepted := rfl
@[simp] theorem State.acceptCmd_irqEn (s : State) (v : Word) :
    (s.acceptCmd v).irqEn = s.irqEn := rfl
@[simp] theorem State.acceptCmd_inLen (s : State) (v : Word) :
    (s.acceptCmd v).inLen = s.inLen := rfl
@[simp] theorem State.acceptCmd_outLen (s : State) (v : Word) :
    (s.acceptCmd v).outLen = s.outLen := rfl
@[simp] theorem State.acceptCmd_result (s : State) (v : Word) :
    (s.acceptCmd v).result = s.result := rfl
@[simp] theorem State.acceptCmd_hdr (s : State) (v : Word) :
    (s.acceptCmd v).hdr = s.hdr := rfl
@[simp] theorem State.acceptCmd_pb (s : State) (v : Word) :
    (s.acceptCmd v).pb = s.pb := rfl
@[simp] theorem State.acceptCmd_inBuf (s : State) (v : Word) :
    (s.acceptCmd v).inBuf = s.inBuf := rfl
@[simp] theorem State.acceptCmd_outBuf (s : State) (v : Word) :
    (s.acceptCmd v).outBuf = s.outBuf := rfl
@[simp] theorem State.acceptCmd_latch (s : State) (v : Word) :
    (s.acceptCmd v).latch = { cmd := v, args := s.args, inLen := s.inLen } := rfl
@[simp] theorem State.acceptCmd_script (s : State) (v : Word) :
    (s.acceptCmd v).script = s.script := rfl
@[simp] theorem State.acceptCmd_turns (s : State) (v : Word) :
    (s.acceptCmd v).turns = s.turns := rfl
@[simp] theorem State.acceptCmd_busLog (s : State) (v : Word) :
    (s.acceptCmd v).busLog = s.busLog := rfl

/-! ### `State.dropCmd` -/

@[simp] theorem State.dropCmd_cfg (s : State) :
    (s.dropCmd).cfg = s.cfg := rfl
@[simp] theorem State.dropCmd_draws (s : State) :
    (s.dropCmd).draws = s.draws := rfl
@[simp] theorem State.dropCmd_args (s : State) :
    (s.dropCmd).args = s.args := rfl
@[simp] theorem State.dropCmd_cmd (s : State) :
    (s.dropCmd).cmd = s.cmd := rfl
@[simp] theorem State.dropCmd_status (s : State) :
    (s.dropCmd).status = s.status.dropped := rfl
@[simp] theorem State.dropCmd_irqEn (s : State) :
    (s.dropCmd).irqEn = s.irqEn := rfl
@[simp] theorem State.dropCmd_inLen (s : State) :
    (s.dropCmd).inLen = s.inLen := rfl
@[simp] theorem State.dropCmd_outLen (s : State) :
    (s.dropCmd).outLen = s.outLen := rfl
@[simp] theorem State.dropCmd_result (s : State) :
    (s.dropCmd).result = s.result := rfl
@[simp] theorem State.dropCmd_hdr (s : State) :
    (s.dropCmd).hdr = s.hdr := rfl
@[simp] theorem State.dropCmd_pb (s : State) :
    (s.dropCmd).pb = s.pb := rfl
@[simp] theorem State.dropCmd_inBuf (s : State) :
    (s.dropCmd).inBuf = s.inBuf := rfl
@[simp] theorem State.dropCmd_outBuf (s : State) :
    (s.dropCmd).outBuf = s.outBuf := rfl
@[simp] theorem State.dropCmd_latch (s : State) :
    (s.dropCmd).latch = s.latch := rfl
@[simp] theorem State.dropCmd_script (s : State) :
    (s.dropCmd).script = s.script := rfl
@[simp] theorem State.dropCmd_turns (s : State) :
    (s.dropCmd).turns = s.turns := rfl
@[simp] theorem State.dropCmd_busLog (s : State) :
    (s.dropCmd).busLog = s.busLog := rfl

/-! ### `State.takeTurn` -/

@[simp] theorem State.takeTurn_cfg (s : State) :
    (s.takeTurn).cfg = s.cfg := rfl
@[simp] theorem State.takeTurn_draws (s : State) :
    (s.takeTurn).draws = s.draws := rfl
@[simp] theorem State.takeTurn_args (s : State) :
    (s.takeTurn).args = s.args := rfl
@[simp] theorem State.takeTurn_cmd (s : State) :
    (s.takeTurn).cmd = s.cmd := rfl
@[simp] theorem State.takeTurn_status (s : State) :
    (s.takeTurn).status = s.status := rfl
@[simp] theorem State.takeTurn_irqEn (s : State) :
    (s.takeTurn).irqEn = s.irqEn := rfl
@[simp] theorem State.takeTurn_inLen (s : State) :
    (s.takeTurn).inLen = s.inLen := rfl
@[simp] theorem State.takeTurn_outLen (s : State) :
    (s.takeTurn).outLen = s.outLen := rfl
@[simp] theorem State.takeTurn_result (s : State) :
    (s.takeTurn).result = s.result := rfl
@[simp] theorem State.takeTurn_hdr (s : State) :
    (s.takeTurn).hdr = s.hdr := rfl
@[simp] theorem State.takeTurn_pb (s : State) :
    (s.takeTurn).pb = s.pb := rfl
@[simp] theorem State.takeTurn_inBuf (s : State) :
    (s.takeTurn).inBuf = s.inBuf := rfl
@[simp] theorem State.takeTurn_outBuf (s : State) :
    (s.takeTurn).outBuf = s.outBuf := rfl
@[simp] theorem State.takeTurn_latch (s : State) :
    (s.takeTurn).latch = s.latch := rfl
@[simp] theorem State.takeTurn_script (s : State) :
    (s.takeTurn).script = s.script := rfl
@[simp] theorem State.takeTurn_turns (s : State) :
    (s.takeTurn).turns = s.turns.tail := rfl
@[simp] theorem State.takeTurn_busLog (s : State) :
    (s.takeTurn).busLog = s.busLog := rfl

/-! ### `Status.completed` -/

@[simp] theorem Status.completed_busy (t : Status) (e : ResultCode) (f : ResultFlags) :
    (t.completed e f).busy = false := rfl
@[simp] theorem Status.completed_done (t : Status) (e : ResultCode) (f : ResultFlags) :
    (t.completed e f).done = true := rfl
@[simp] theorem Status.completed_valid (t : Status) (e : ResultCode) (f : ResultFlags) :
    (t.completed e f).valid = t.valid := rfl
@[simp] theorem Status.completed_clip (t : Status) (e : ResultCode) (f : ResultFlags) :
    (t.completed e f).clip = f.clip := rfl
@[simp] theorem Status.completed_warnTrail (t : Status) (e : ResultCode) (f : ResultFlags) :
    (t.completed e f).warnTrail = f.warnTrail := rfl
@[simp] theorem Status.completed_warnHdrSize (t : Status) (e : ResultCode) (f : ResultFlags) :
    (t.completed e f).warnHdrSize = f.warnHdrSize := rfl
@[simp] theorem Status.completed_cmdLost (t : Status) (e : ResultCode) (f : ResultFlags) :
    (t.completed e f).cmdLost = t.cmdLost := rfl
@[simp] theorem Status.completed_err (t : Status) (e : ResultCode) (f : ResultFlags) :
    (t.completed e f).err = e := rfl

/-! ### `Status.accepted` -/

@[simp] theorem Status.accepted_busy (t : Status) :
    (t.accepted).busy = true := rfl
@[simp] theorem Status.accepted_done (t : Status) :
    (t.accepted).done = t.done := rfl
@[simp] theorem Status.accepted_valid (t : Status) :
    (t.accepted).valid = t.valid := rfl
@[simp] theorem Status.accepted_clip (t : Status) :
    (t.accepted).clip = false := rfl
@[simp] theorem Status.accepted_warnTrail (t : Status) :
    (t.accepted).warnTrail = false := rfl
@[simp] theorem Status.accepted_warnHdrSize (t : Status) :
    (t.accepted).warnHdrSize = false := rfl
@[simp] theorem Status.accepted_cmdLost (t : Status) :
    (t.accepted).cmdLost = t.cmdLost := rfl
@[simp] theorem Status.accepted_err (t : Status) :
    (t.accepted).err = .none := rfl

/-! ### `Status.dropped` -/

@[simp] theorem Status.dropped_busy (t : Status) :
    (t.dropped).busy = t.busy := rfl
@[simp] theorem Status.dropped_done (t : Status) :
    (t.dropped).done = t.done := rfl
@[simp] theorem Status.dropped_valid (t : Status) :
    (t.dropped).valid = t.valid := rfl
@[simp] theorem Status.dropped_clip (t : Status) :
    (t.dropped).clip = t.clip := rfl
@[simp] theorem Status.dropped_warnTrail (t : Status) :
    (t.dropped).warnTrail = t.warnTrail := rfl
@[simp] theorem Status.dropped_warnHdrSize (t : Status) :
    (t.dropped).warnHdrSize = t.warnHdrSize := rfl
@[simp] theorem Status.dropped_cmdLost (t : Status) :
    (t.dropped).cmdLost = true := rfl
@[simp] theorem Status.dropped_err (t : Status) :
    (t.dropped).err = t.err := rfl

/-! ### `Status.withImage` -/

@[simp] theorem Status.withImage_busy (t : Status) :
    (t.withImage).busy = t.busy := rfl
@[simp] theorem Status.withImage_done (t : Status) :
    (t.withImage).done = t.done := rfl
@[simp] theorem Status.withImage_valid (t : Status) :
    (t.withImage).valid = true := rfl
@[simp] theorem Status.withImage_clip (t : Status) :
    (t.withImage).clip = t.clip := rfl
@[simp] theorem Status.withImage_warnTrail (t : Status) :
    (t.withImage).warnTrail = t.warnTrail := rfl
@[simp] theorem Status.withImage_warnHdrSize (t : Status) :
    (t.withImage).warnHdrSize = t.warnHdrSize := rfl
@[simp] theorem Status.withImage_cmdLost (t : Status) :
    (t.withImage).cmdLost = t.cmdLost := rfl
@[simp] theorem Status.withImage_err (t : Status) :
    (t.withImage).err = t.err := rfl

/-! ### `Status.writeOneToClear` -/

@[simp] theorem Status.writeOneToClear_busy (t : Status) (v : Word) :
    (t.writeOneToClear v).busy = t.busy := rfl
@[simp] theorem Status.writeOneToClear_done (t : Status) (v : Word) :
    (t.writeOneToClear v).done = (t.done && !v.getLsbD 1) := rfl
@[simp] theorem Status.writeOneToClear_valid (t : Status) (v : Word) :
    (t.writeOneToClear v).valid = t.valid := rfl
@[simp] theorem Status.writeOneToClear_clip (t : Status) (v : Word) :
    (t.writeOneToClear v).clip = t.clip := rfl
@[simp] theorem Status.writeOneToClear_warnTrail (t : Status) (v : Word) :
    (t.writeOneToClear v).warnTrail = t.warnTrail := rfl
@[simp] theorem Status.writeOneToClear_warnHdrSize (t : Status) (v : Word) :
    (t.writeOneToClear v).warnHdrSize = t.warnHdrSize := rfl
@[simp] theorem Status.writeOneToClear_cmdLost (t : Status) (v : Word) :
    (t.writeOneToClear v).cmdLost = (t.cmdLost && !v.getLsbD 6) := rfl
@[simp] theorem Status.writeOneToClear_err (t : Status) (v : Word) :
    (t.writeOneToClear v).err = t.err := rfl

/-! ### Reads of the buffers after an update that leaves them -/

@[simp] theorem State.putImage_inByte (s : State) (h : Header) (g : Grid) (i : Nat) :
    (s.putImage h g).inByte i = s.inByte i := rfl
@[simp] theorem State.putImage_outByte (s : State) (h : Header) (g : Grid) (i : Nat) :
    (s.putImage h g).outByte i = s.outByte i := rfl
@[simp] theorem State.putGrid_inByte (s : State) (g : Grid) (i : Nat) :
    (s.putGrid g).inByte i = s.inByte i := rfl
@[simp] theorem State.putGrid_outByte (s : State) (g : Grid) (i : Nat) :
    (s.putGrid g).outByte i = s.outByte i := rfl
@[simp] theorem State.putScaled_inByte (s : State) (h : Header) (g : Grid) (i : Nat) :
    (s.putScaled h g).inByte i = s.inByte i := rfl
@[simp] theorem State.putScaled_outByte (s : State) (h : Header) (g : Grid) (i : Nat) :
    (s.putScaled h g).outByte i = s.outByte i := rfl
@[simp] theorem State.putResult_inByte (s : State) (c : Color) (i : Nat) :
    (s.putResult c).inByte i = s.inByte i := rfl
@[simp] theorem State.putResult_outByte (s : State) (c : Color) (i : Nat) :
    (s.putResult c).outByte i = s.outByte i := rfl
@[simp] theorem State.putOutput_inByte (s : State) (l : List Host.Cell) (n : Word) (i : Nat) :
    (s.putOutput l n).inByte i = s.inByte i := rfl
@[simp] theorem State.finish_inByte (s : State) (e : ResultCode) (f : ResultFlags) (i : Nat) :
    (s.finish e f).inByte i = s.inByte i := rfl
@[simp] theorem State.finish_outByte (s : State) (e : ResultCode) (f : ResultFlags) (i : Nat) :
    (s.finish e f).outByte i = s.outByte i := rfl
@[simp] theorem State.raise_inByte (s : State) (e : ResultCode) (i : Nat) :
    (s.raise e).inByte i = s.inByte i := rfl
@[simp] theorem State.raise_outByte (s : State) (e : ResultCode) (i : Nat) :
    (s.raise e).outByte i = s.outByte i := rfl
@[simp] theorem State.acceptCmd_inByte (s : State) (v : Word) (i : Nat) :
    (s.acceptCmd v).inByte i = s.inByte i := rfl
@[simp] theorem State.acceptCmd_outByte (s : State) (v : Word) (i : Nat) :
    (s.acceptCmd v).outByte i = s.outByte i := rfl
@[simp] theorem State.dropCmd_inByte (s : State) (i : Nat) :
    (s.dropCmd).inByte i = s.inByte i := rfl
@[simp] theorem State.dropCmd_outByte (s : State) (i : Nat) :
    (s.dropCmd).outByte i = s.outByte i := rfl
@[simp] theorem State.takeTurn_inByte (s : State) (i : Nat) :
    (s.takeTurn).inByte i = s.inByte i := rfl
@[simp] theorem State.takeTurn_outByte (s : State) (i : Nat) :
    (s.takeTurn).outByte i = s.outByte i := rfl

end Sys2Proof.Machine
end

