-- ==== Sys2Proof/Laws/Bus.lean ====
section
/-! SUPPORT. What one host access can do to the block, said once: `access_effect`; and what the window
map and the register map answer. -/

namespace Sys2Proof.Machine

open Sys2Proof

/-- The states one host access can leave the block in, from `s` (10_state.md R39, the host's
column). -/
inductive AccessEffect (s : State) : State → Prop where
  /-- a read, an ignored write, SLVERR, or no response -/
  | same : AccessEffect s s
  /-- a write to CMD while BUSY = 0 (R20) -/
  | accepted (v : Word) (hb : s.status.busy = false) : AccessEffect s (s.acceptCmd v)
  /-- a write to CMD while BUSY = 1 (R20) -/
  | dropped (hb : s.status.busy = true) : AccessEffect s s.dropCmd
  /-- a write to STATUS (R21) -/
  | cleared (v : Word) : AccessEffect s { s with status := s.status.writeOneToClear v }
  /-- a write to CTRL (R28) -/
  | ctrl (b : Bool) : AccessEffect s { s with irqEn := b }
  /-- a write to IN_LEN (R37) -/
  | inLen (v : Word) : AccessEffect s { s with inLen := clampInLen s.cfg v }
  /-- a write to an argument register (R18) -/
  | args (a : Args) : AccessEffect s { s with args := a }
  /-- a write to the input window while BUSY = 0 (R50, R53) -/
  | input (hb : s.status.busy = false) (cells : List Host.Cell)
      (hc : ∀ c ∈ cells, c.1 < s.cfg.inCap) :
      AccessEffect s { s with inBuf := Memory.writeAll s.inBuf cells }

theorem writeReg_effect (s : State) (r : Reg) (v : Word) : AccessEffect s (s.writeReg r v) := by
  cases r
  case cmd =>
    change AccessEffect s (s.writeCmd v)
    unfold State.writeCmd
    by_cases hb : s.status.busy = true
    · rw [if_pos hb]; exact .dropped hb
    · rw [if_neg hb]; exact .accepted v (by simpa using hb)
  case status => exact .cleared v
  case ctrl => exact .ctrl _
  case inLen => exact .inLen v
  all_goals exact .args _

theorem writeRegisters_effect (s : State) (a off : Nat) (n : Size) (v : Word) :
    AccessEffect s (s.writeRegisters a off n v).1 := by
  unfold State.writeRegisters
  split
  · split
    · exact writeReg_effect s _ v
    · exact .same
  · exact .same

theorem writeInput_effect (s : State) (a off : Nat) (n : Size) (v : Word) :
    AccessEffect s (s.writeInput a off n v).1 := by
  unfold State.writeInput
  by_cases hb : s.status.busy = true
  · rw [if_pos hb]; exact .same
  · rw [if_neg hb]
    split
    · rename_i hok
      refine .input (by simpa using hb) _ fun c hc => ?_
      obtain ⟨i, hi, rfl⟩ := mem_leCells.1 hc
      simp only [bufAccessOk, Bool.and_eq_true, decide_eq_true_eq] at hok
      simp only
      omega
    · exact .same

/-- What any host access can do. -/
theorem access_effect (s : State) (a : Access) : AccessEffect s (s.access a).1 := by
  cases a with
  | read a n =>
    simp only [State.access]
    split <;> exact .same
  | write a n v =>
    simp only [State.access]
    split
    · exact writeRegisters_effect ..
    · exact writeInput_effect ..
    · exact .same
    · exact .same

/-- A host operation other than reset leaves the block as one access does. -/
theorem busCycle_effect (s : State) (a : Access) :
    ∃ u, AccessEffect s u ∧ s.busCycle a = { u with busLog := (a, (s.access a).2) :: s.busLog } :=
  ⟨_, access_effect s a, rfl⟩

/-! ### The maps -/

/-- Every register is found at its own offset: no two registers share one. -/
theorem regAt_offset (r : Reg) : regAt r.offset = some r := by cases r <;> decide

/-- Every register's offset is a multiple of four inside the 4 KiB window. -/
theorem Reg.offset_lt (r : Reg) : r.offset < 0x13C ∧ r.offset % 4 = 0 := by cases r <;> decide

/-- R44: a register's address lies in the register window. -/
theorem windowAt_register {p : Params} (hp : p.wf = true) {off : Nat} (h : off < 4096) :
    windowAt p (trunc32 (p.regBase + off)).toNat = some (.registers, off) := by
  have f := Params.facts hp
  have h1 := f.regInside
  rw [trunc32_toNat (by omega), windowAt, if_pos]
  · simp
  · simp [Params.regWindow, h]

/-- R44: byte `off` of IN_BUF is at IN_BASE + off. -/
theorem windowAt_input {p : Params} (hp : p.wf = true) {off : Nat} (h : off < p.inCap) :
    windowAt p (trunc32 (p.inBase + off)).toNat = some (.input, off) := by
  have f := Params.facts hp
  have h1 := f.inInside
  have h2 := f.regIn
  rw [trunc32_toNat (by omega), windowAt, if_neg, if_pos]
  · simp
  · simp [h]
  · simp only [Bool.and_eq_true, decide_eq_true_eq]; unfold Params.regWindow; omega

/-- R44: byte `off` of OUT_BUF is at OUT_BASE + off. -/
theorem windowAt_output {p : Params} (hp : p.wf = true) {off : Nat} (h : off < p.outCap) :
    windowAt p (trunc32 (p.outBase + off)).toNat = some (.output, off) := by
  have f := Params.facts hp
  have h1 := f.outInside
  have h2 := f.regOut
  have h3 := f.inOut
  rw [trunc32_toNat (by omega), windowAt, if_neg, if_neg, if_pos]
  · simp
  · simp [h]
  · simp only [Bool.and_eq_true, decide_eq_true_eq]; omega
  · simp only [Bool.and_eq_true, decide_eq_true_eq]; unfold Params.regWindow; omega

/-- A register access at its own address is OKAY and reads the register (R48). -/
theorem access_read_reg {s : State} (hp : s.cfg.wf = true) (r : Reg) :
    s.access (.read (regAddr s.cfg r) .four) = (s, some (.okay (s.readReg r))) := by
  have f := Params.facts hp
  obtain ⟨h1, h2⟩ := Reg.offset_lt r
  have h3 := f.regAligned
  have h4 := f.regInside
  have hm : (trunc32 (s.cfg.regBase + r.offset)).toNat % 4 = 0 := by
    rw [trunc32_toNat (by omega)]; omega
  unfold State.access regAddr
  simp only [windowAt_register hp (show r.offset < 4096 by omega)]
  simp [State.readRegisters, regAccessOk, Size.bytes, hm, regAt_offset]

/-- A register read by the number of its offset (10_state.md). -/
theorem access_read_off {s : State} (hp : s.cfg.wf = true) {r : Reg} {off : Nat}
    (h : r.offset = off) :
    s.access (.read (trunc32 (s.cfg.regBase + off)) .four) = (s, some (.okay (s.readReg r))) := by
  subst h; exact access_read_reg hp r

/-- A write to a register at its own address is OKAY and does what the register's rule says. -/
theorem access_write_reg {s : State} (hp : s.cfg.wf = true) (r : Reg) (v : Word) :
    s.access (.write (regAddr s.cfg r) .four v) = (s.writeReg r v, some (.okay 0)) := by
  have f := Params.facts hp
  obtain ⟨h1, h2⟩ := Reg.offset_lt r
  have h3 := f.regAligned
  have h4 := f.regInside
  have hm : (trunc32 (s.cfg.regBase + r.offset)).toNat % 4 = 0 := by
    rw [trunc32_toNat (by omega)]; omega
  unfold State.access regAddr
  simp only [windowAt_register hp (show r.offset < 4096 by omega)]
  simp [State.writeRegisters, regAccessOk, Size.bytes, hm, regAt_offset]

/-- A register written by the number of its offset (10_state.md). -/
theorem access_write_off {s : State} (hp : s.cfg.wf = true) {r : Reg} {off : Nat}
    (h : r.offset = off) (v : Word) :
    s.access (.write (trunc32 (s.cfg.regBase + off)) .four v)
      = (s.writeReg r v, some (.okay 0)) := by
  subst h; exact access_write_reg hp r v

/-! ### Reads of the buffer windows -/

/-- R45: what n bytes read as: no bit above 8n, and byte k in bits 8k+7:8k. -/
theorem leWord_lt (f : Nat → Byte) (i : Nat) (n : Size) :
    (leWord f i n).toNat = leSum f i n.bytes ∧ (leWord f i n).toNat < 2 ^ (8 * n.bytes) := by
  have h := leSum_lt f i n.bytes
  have h32 : leSum f i n.bytes < 2 ^ 32 := by
    cases n <;> simp only [Size.bytes] at h ⊢ <;> omega
  rw [leWord, trunc32_toNat h32]
  exact ⟨rfl, h⟩

theorem leWord_byte (f : Nat → Byte) (i : Nat) (n : Size) {k : Nat} (hk : k < n.bytes) :
    (leWord f i n).extractLsb' (8 * k) 8 = f (i + k) := by
  apply BitVec.eq_of_toNat_eq
  rw [BitVec.extractLsb'_toNat, Nat.shiftRight_eq_div_pow, (leWord_lt f i n).1]
  exact leSum_byte hk

/-- R49: an access at an aligned offset, wholly inside a window with an aligned base, is good. -/
theorem bufAccessOk_at {base off cap : Nat} {n : Size} (hb : base % 4 = 0)
    (hc : base + cap ≤ 2 ^ 32) (ha : off % n.bytes = 0) (hi : off + n.bytes ≤ cap) :
    bufAccessOk (trunc32 (base + off)).toNat off cap n = true := by
  have hm : (base + off) % n.bytes = 0 := by cases n <;> simp only [Size.bytes] at ha ⊢ <;> omega
  have hp : 0 < n.bytes := by cases n <;> decide
  simp [bufAccessOk, trunc32_toNat (show base + off < 2 ^ 32 by omega), hm, hi]

/-- A good read of the input window (R50). -/
theorem access_read_input {s : State} {off : Nat} {n : Size} (hp : s.cfg.wf = true)
    (hb : s.status.busy = false) (ha : off % n.bytes = 0) (hi : off + n.bytes ≤ s.cfg.inCap) :
    s.access (.read (trunc32 (s.cfg.inBase + off)) n)
      = (s, some (.okay (leWord s.inByte off n))) := by
  have f := Params.facts hp
  have hn : 0 < n.bytes := by cases n <;> decide
  simp only [State.access, windowAt_input hp (show off < s.cfg.inCap by omega), State.readInput, hb,
    bufAccessOk_at f.inAligned f.inInside ha hi, if_true, Bool.false_eq_true, if_false]

/-- A good read of the output window (R51). -/
theorem access_read_output {s : State} {off : Nat} {n : Size} (hp : s.cfg.wf = true)
    (hb : s.status.busy = false) (ha : off % n.bytes = 0) (hi : off + n.bytes ≤ s.cfg.outCap) :
    s.access (.read (trunc32 (s.cfg.outBase + off)) n)
      = (s, some (.okay (leWord s.outByte off n))) := by
  have f := Params.facts hp
  have hn : 0 < n.bytes := by cases n <;> decide
  simp only [State.access, windowAt_output hp (show off < s.cfg.outCap by omega),
    State.readOutput, hb, bufAccessOk_at f.outAligned f.outInside ha hi, if_true,
    Bool.false_eq_true, if_false]

/-! ### The STATUS and CTRL words -/

/-- R28: IRQ_EN in bit 0, bits 31:1 zero. -/
theorem ctrlWord_toNat (b : Bool) : (ctrlWord b).toNat = b.toNat := by cases b <;> rfl


/-- R21: the bits of the STATUS word. -/
theorem Status.word_bits (t : Status) :
    t.word.getLsbD 0 = t.busy ∧ t.word.getLsbD 1 = t.done ∧ t.word.getLsbD 2 = t.valid ∧
    t.word.getLsbD 3 = t.clip ∧ t.word.getLsbD 4 = t.warnTrail ∧
    t.word.getLsbD 5 = t.warnHdrSize ∧ t.word.getLsbD 6 = t.cmdLost ∧
    t.word.getLsbD 7 = false ∧ t.word.extractLsb' 8 8 = t.err.code ∧
    t.word.extractLsb' 16 16 = 0 := by
  obtain ⟨b0, b1, b2, b3, b4, b5, b6, e⟩ := t
  revert b0 b1 b2 b3 b4 b5 b6
  cases e <;> decide +kernel

end Sys2Proof.Machine
end

