-- ==== Sys2Proof/Laws/Commands.lean ====
section
/-! SUPPORT. What a command can do, said once: `exec_effect` and `exec_fault`. The statements about
all commands are derived from these. -/

namespace Sys2Proof.Machine

open Sys2Proof

/-! ### The check for an image (60_exceptions.md R114) -/

theorem State.needImage_absent {s : State} (h : s.status.valid = false)
    (b : Host.Outcome State Fault Refusal) : s.needImage b = .next (s.raise .noImage) := by
  simp [State.needImage, h]

theorem State.needImage_present {s : State} (h : s.status.valid = true) (ok : s.imageOk = true)
    (b : Host.Outcome State Fault Refusal) : s.needImage b = b := by
  simp [State.needImage, h, ok]

/-- The check answers the error, the fault of a broken image, or what its body answers. -/
theorem State.needImage_next {s t : State} {b : Host.Outcome State Fault Refusal}
    (h : s.needImage b = .next t) :
    (s.status.valid = false ∧ t = s.raise .noImage) ∨
    (s.status.valid = true ∧ ImageFacts s ∧ b = .next t) := by
  unfold State.needImage at h
  split at h
  · split at h
    · rename_i hv ok; exact .inr ⟨hv, State.imageOk_iff.1 ok, h⟩
    · cases h
  · rename_i hv; cases h; exact .inl ⟨by simpa using hv, rfl⟩

theorem State.needImage_fault {s : State} {b : Host.Outcome State Fault Refusal} {f : Fault}
    (h : s.needImage b = .fault f) :
    (s.status.valid = true ∧ s.imageOk = false) ∨
    (s.status.valid = true ∧ ImageFacts s ∧ b = .fault f) := by
  unfold State.needImage at h
  split at h
  · rename_i hv
    split at h
    · rename_i ok; exact .inr ⟨hv, State.imageOk_iff.1 ok, h⟩
    · rename_i ok; exact .inl ⟨hv, by simpa using ok⟩
  · cases h

theorem State.needImage_refused {s : State} {b : Host.Outcome State Fault Refusal} {r : Refusal}
    (h : s.needImage b = .refused r) : b = .refused r := by
  unfold State.needImage at h
  split at h
  · split at h
    · exact h
    · cases h
  · cases h

/-! ### The effects -/

/-- The states a command can leave the machine in, from `s`. -/
inductive CommandEffect (s : State) : State → Prop where
  /-- an error: nothing but STATUS changes (R113) -/
  | raised (e : ResultCode) (he : e ≠ .none) : CommandEffect s (s.raise e)
  /-- a new image (R80, R89, R91) -/
  | image (h : Header) (g : Grid) (f : ResultFlags) (hf : f.clip = false)
      (ok : (s.putImage h g).imageOk = true) : CommandEffect s ((s.putImage h g).finish .none f)
  /-- an encoded stream (R85) -/
  | output (hv : s.status.valid = true) (ok : ImageFacts s) :
      CommandEffect s ((s.putOutput s.encodedCells (trunc32 s.encodedLen)).finish .none {})
  /-- a pixel read (R92) -/
  | result (hv : s.status.valid = true) (c : Color) :
      CommandEffect s ((s.putResult c).finish .none {})
  /-- a drawing (R95, R98, R99, R101, R105, R107) -/
  | drawn (hv : s.status.valid = true) (ok : ImageFacts s) (g : Grid)
      (hg : Grid.hasShape g s.width s.height = true) (clip : Bool) :
      CommandEffect s ((s.putGrid g).finish .none { clip := clip })
  /-- an enlargement (R108) -/
  | scaled (hv : s.status.valid = true) (ok : ImageFacts s) (h : Header) (g : Grid)
      (ok' : s.cfg.wf = true → (s.putScaled h g).imageOk = true) :
      CommandEffect s ((s.putScaled h g).finish .none {})

theorem State.drawPoints_effect {s : State} (hv : s.status.valid = true) (hi : ImageFacts s)
    (c : Color) (pts : List (Int × Int)) : CommandEffect s (s.drawPoints c pts) :=
  .drawn hv hi _ (plotAll_hasShape hi.shape c false pts) _

/-- An image built from checked operands meets R32. -/
theorem State.putImage_imageOk {s : State} {h : Header} {g : Grid} (h1 : h.signature = 0x4D42)
    (h2 : depthOk h.bpp.toNat = true) (h3 : h.compression = 0)
    (h4 : overCapacity s.cfg h.width.toNat h.height.toNat = false)
    (h5 : Grid.hasShape g h.width.toNat h.height.toNat = true) :
    (s.putImage h g).imageOk = true :=
  State.imageOk_iff.2 ⟨h1, h2, h3, h4, h5⟩

/-- R71: a u16 field of the stream that starts with two given bytes. -/
theorem State.parseHeader_signature {s : State} (h0 : s.inByte 0 = 0x42) (h1 : s.inByte 1 = 0x4D) :
    s.parseHeader.signature = 0x4D42 := by
  simp [State.parseHeader, State.le, leSum, h0, h1]

/-- R80: what the checks after the header leave. -/
theorem State.decodeBody_effect {s : State} {n : Nat} {h : Header} (hs : h.signature = 0x4D42) :
    CommandEffect s (s.decodeBody n h) := by
  unfold State.decodeBody
  split
  · exact .raised _ (by simp)
  split
  · exact .raised _ (by simp)
  split
  · exact .raised _ (by simp)
  split
  · exact .raised _ (by simp)
  · rename_i h1 h2 h3 _
    exact .image _ _ _ rfl (State.putImage_imageOk hs (by simpa using h1) (by simpa using h2)
      (by simpa [zext32] using h3) (Grid.hasShape_build ..))

theorem constructed_imageOk {s : State} (hb : depthOk s.opBpp = true)
    (hc : overCapacity s.cfg s.opW s.opH = false) {g : Grid}
    (hg : Grid.hasShape g s.opW s.opH = true) :
    (s.putImage (constructedHeaders s.opW s.opH s.opBpp) g).imageOk = true := by
  have hw : (trunc32 s.opW).toNat = s.opW := trunc32_toNat (BitVec.isLt _)
  have hh : (trunc32 s.opH).toNat = s.opH := trunc32_toNat (BitVec.isLt _)
  refine State.putImage_imageOk rfl ?_ rfl ?_ ?_
  · rcases depthOk_iff.1 hb with h | h <;> simp [constructedHeaders, h, depthOk]
  · simpa [constructedHeaders, hw, hh] using hc
  · simpa [constructedHeaders, hw, hh] using hg

/-- R108: an upscaled image within capacity meets R32. -/
theorem rescaled_imageOk {s : State} (hi : ImageFacts s) {f : Nat}
    (hc : overCapacity s.cfg (s.width * f) (s.height * f) = false) (hp : s.cfg.wf = true) :
    (s.putScaled (s.hdr.rescaled (s.width * f) (s.height * f)) (Grid.upscale s.pb f)).imageOk
      = true := by
  have f1 := Params.facts hp
  obtain ⟨c1, c2, -⟩ := overCapacity_false.1 hc
  have hw : (trunc32 (s.width * f)).toNat = s.width * f :=
    trunc32_toNat (Nat.lt_of_le_of_lt c1 f1.maxW)
  have hh : (trunc32 (s.height * f)).toNat = s.height * f :=
    trunc32_toNat (Nat.lt_of_le_of_lt c2 f1.maxH)
  refine State.imageOk_iff.2 ⟨hi.signature, hi.depth, hi.compression, ?_, ?_⟩
  · change overCapacity s.cfg (trunc32 (s.width * f)).toNat (trunc32 (s.height * f)).toNat = false
    rwa [hw, hh]
  · change Grid.hasShape _ (trunc32 (s.width * f)).toNat (trunc32 (s.height * f)).toNat = true
    rw [hw, hh]
    exact Grid.hasShape_upscale hi.shape f

/-- What any command can do. -/
theorem exec_effect {i : Instr} {s t : State} (h : exec i s = .next t) : CommandEffect s t := by
  cases i <;> simp only [exec] at h
  case decode =>
    unfold execDecode at h
    split at h
    · cases h; exact .raised _ (by simp)
    split at h
    · cases h; exact .raised _ (by simp)
    · rename_i hb
      cases h
      rw [not_or, not_not, not_not] at hb
      exact State.decodeBody_effect (State.parseHeader_signature hb.1 hb.2)
  case encode =>
    rcases State.needImage_next h with ⟨-, rfl⟩ | ⟨hv, hi, hb⟩
    · exact .raised _ (by simp)
    · cases hb; exact .output hv hi
  case construct =>
    unfold execConstruct at h
    split at h
    · cases h; exact .raised _ (by simp)
    split at h
    · cases h; exact .raised _ (by simp)
    · rename_i h1 h2
      cases h
      exact .image _ _ _ rfl (constructed_imageOk (by simpa using h1) (by simpa using h2)
        (Grid.hasShape_filled ..))
  case constructC =>
    unfold execConstructC at h
    split at h
    · cases h; exact .raised _ (by simp)
    split at h
    · cases h; exact .raised _ (by simp)
    split at h
    · cases h; exact .raised _ (by simp)
    · rename_i h1 h2 _
      cases h
      exact .image _ _ _ rfl (constructed_imageOk (by simpa using h1) (by simpa using h2)
        (Grid.hasShape_put (Grid.hasShape_filled ..) _ _ _))
  case getPixel =>
    rcases State.needImage_next h with ⟨-, rfl⟩ | ⟨hv, hi, hb⟩
    · exact .raised _ (by simp)
    · split at hb
      · split at hb
        · cases hb; exact .result hv _
        · cases hb
      · cases hb; exact .raised _ (by simp)
  case setPixel =>
    rcases State.needImage_next h with ⟨-, rfl⟩ | ⟨hv, hi, hb⟩
    · exact .raised _ (by simp)
    · split at hb
      · cases hb; exact .drawn hv hi _ (Grid.hasShape_paint hi.shape _ _) false
      · cases hb; exact .drawn hv hi s.pb hi.shape true
  case drawLine =>
    rcases State.needImage_next h with ⟨-, rfl⟩ | ⟨hv, hi, hb⟩
    · exact .raised _ (by simp)
    · cases hb; exact State.drawPoints_effect hv hi _ _
  case drawCircle =>
    rcases State.needImage_next h with ⟨-, rfl⟩ | ⟨hv, hi, hb⟩
    · exact .raised _ (by simp)
    · cases hb; exact State.drawPoints_effect hv hi _ _
  case rectOutline =>
    rcases State.needImage_next h with ⟨-, rfl⟩ | ⟨hv, hi, hb⟩
    · exact .raised _ (by simp)
    · split at hb
      · cases hb; exact .drawn hv hi _ (Grid.hasShape_paint hi.shape _ _) false
      · cases hb; exact .raised _ (by simp)
  case rectFill =>
    rcases State.needImage_next h with ⟨-, rfl⟩ | ⟨hv, hi, hb⟩
    · exact .raised _ (by simp)
    · split at hb
      · cases hb; exact .drawn hv hi _ (Grid.hasShape_paint hi.shape _ _) false
      · cases hb; exact .raised _ (by simp)
  case drawTriangle =>
    rcases State.needImage_next h with ⟨-, rfl⟩ | ⟨hv, hi, hb⟩
    · exact .raised _ (by simp)
    · cases hb; exact State.drawPoints_effect hv hi _ _
  case upscale =>
    rcases State.needImage_next h with ⟨-, rfl⟩ | ⟨hv, hi, hb⟩
    · exact .raised _ (by simp)
    split at hb
    · cases hb; exact .raised _ (by simp)
    split at hb
    · cases hb; exact .raised _ (by simp)
    · rename_i _ hc
      cases hb
      exact .scaled hv hi _ _ (rescaled_imageOk hi (by simpa using hc))

/-- A pixel in bounds of an image that meets R32 is there (41_buffer.md R93). -/
theorem Grid.get?_of_inBounds {g : Grid} {w h : Nat} (hs : Grid.hasShape g w h = true) {x y : Int}
    (hb : inBounds w h x y = true) : ∃ c, Grid.get? g x.toNat y.toNat = some c := by
  obtain ⟨h0, h1, h2, h3⟩ := inBounds_iff.1 hb
  exact Option.isSome_iff_exists.1 ((Grid.get?_isSome hs _ _).2 ⟨by omega, by omega⟩)

/-- GET_PIXEL's body answers a next state on an image that meets R32 (R92). -/
theorem execGetPixel_body {s : State} (hi : ImageFacts s) :
    ∃ t, (if inBounds s.width s.height s.opX0 s.opY0 then
      match Grid.get? s.pb s.opX0.toNat s.opY0.toNat with
      | some c => .next ((s.putResult c).finish .none {})
      | none => .fault .imageInconsistent
    else .next (s.raise .index) : Host.Outcome State Fault Refusal) = .next t := by
  split
  · rename_i hb
    obtain ⟨c, hc⟩ := Grid.get?_of_inBounds hi.shape hb
    exact ⟨_, by rw [hc]⟩
  · exact ⟨_, rfl⟩

/-- The three commands that need no image always answer a next state (R80, R89, R91). -/
theorem execDecode_next (s : State) : ∃ t, execDecode s = .next t := by
  unfold execDecode; split_ifs <;> exact ⟨_, rfl⟩

theorem execConstruct_next (s : State) : ∃ t, execConstruct s = .next t := by
  unfold execConstruct; split_ifs <;> exact ⟨_, rfl⟩

theorem execConstructC_next (s : State) : ∃ t, execConstructC s = .next t := by
  unfold execConstructC; split_ifs <;> exact ⟨_, rfl⟩

/-- A command faults only where VALID = 1 and R32 is broken (log 8). -/
theorem exec_fault {i : Instr} {s : State} {f : Fault} (h : exec i s = .fault f) :
    s.status.valid = true ∧ s.imageOk = false := by
  cases i <;> simp only [exec] at h
  case decode => obtain ⟨t, ht⟩ := execDecode_next s; rw [ht] at h; cases h
  case construct => obtain ⟨t, ht⟩ := execConstruct_next s; rw [ht] at h; cases h
  case constructC => obtain ⟨t, ht⟩ := execConstructC_next s; rw [ht] at h; cases h
  case getPixel =>
    rcases State.needImage_fault h with h | ⟨-, hi, hb⟩
    · exact h
    · obtain ⟨t, ht⟩ := execGetPixel_body hi
      cases ht.symm.trans hb
  all_goals
    rcases State.needImage_fault h with h | ⟨-, -, hb⟩
    · exact h
    · revert hb; (try split_ifs) <;> nofun

/-- No command is refused. -/
theorem exec_not_refused (i : Instr) (s : State) (r : Refusal) : exec i s ≠ .refused r := by
  intro h
  cases i <;> simp only [exec] at h
  case decode => obtain ⟨t, ht⟩ := execDecode_next s; rw [ht] at h; cases h
  case construct => obtain ⟨t, ht⟩ := execConstruct_next s; rw [ht] at h; cases h
  case constructC => obtain ⟨t, ht⟩ := execConstructC_next s; rw [ht] at h; cases h
  case getPixel =>
    have hb := State.needImage_refused h
    split at hb
    · split at hb <;> cases hb
    · cases hb
  all_goals
    have hb := State.needImage_refused h
    revert hb; (try split_ifs) <;> nofun

end Sys2Proof.Machine
end

