-- ==== Sys2Proof/Laws/Decode.lean ====
section
/-! SUPPORT. The fields and the bytes of a command word, and what the opcode table holds. -/

namespace Sys2Proof

/-- R61: a word is its RSV above its OPC. -/
theorem word_eq_fields (v : Word) : v = ((splitWord v).rsv ++ (splitWord v).opc : BitVec 32) := by
  apply BitVec.eq_of_getLsbD_eq
  intro i hi
  simp only [splitWord, BitVec.getLsbD_append, BitVec.getLsbD_extractLsb']
  by_cases h : i < 8
  · simp [h]
  · simp only [h, decide_false, if_false]
    rw [show 8 + (i - 8) = i by omega]
    simp; omega

/-- R45: the four bytes of a word, put together again, are the word. -/
theorem wordOfBytes_bytes (v : Word) :
    wordOfBytes (v.extractLsb' 0 8) (v.extractLsb' 8 8) (v.extractLsb' 16 8) (v.extractLsb' 24 8)
      = v := by
  apply BitVec.eq_of_getLsbD_eq
  intro i hi
  simp only [wordOfBytes, BitVec.getLsbD_append, BitVec.getLsbD_extractLsb']
  by_cases h1 : i < 8
  · simp [h1]
  · by_cases h2 : i < 16
    · simp [h1, show i - 8 < 8 by omega, show 8 + (i - 8) = i by omega]
    · by_cases h3 : i < 24
      · simp [h1, show ¬(i - 8 < 8) by omega, show i - 8 - 8 < 8 by omega,
          show 16 + (i - 8 - 8) = i by omega]
      · simp [h1, show ¬(i - 8 < 8) by omega, show ¬(i - 8 - 8 < 8) by omega,
          show i - 8 - 8 - 8 < 8 by omega, show 24 + (i - 8 - 8 - 8) = i by omega]

/-- A looked-up command stands in the table beside its OPC. -/
theorem mem_of_lookupOpcode {o : BitVec 8} {i : Instr} (t : List (BitVec 8 × Instr))
    (h : lookupOpcode o t = some i) : (o, i) ∈ t := by
  induction t with
  | nil => simp [lookupOpcode] at h
  | cons p rest ih =>
    obtain ⟨k, j⟩ := p
    rw [lookupOpcode] at h
    split at h
    · rename_i hk
      subst hk
      simp_all
    · exact List.mem_cons_of_mem _ (ih h)

/-- R63: the row that an OPC is found in is its command's. -/
theorem lookupOpcode_some {o : BitVec 8} {i : Instr} (h : lookupOpcode o opcodeTable = some i) :
    o = i.opcode :=
  (by decide : ∀ p ∈ opcodeTable, p.1 = p.2.opcode) _ (mem_of_lookupOpcode _ h)

/-- R63: every command's OPC is in the table, at its own row. -/
theorem lookupOpcode_opcode (i : Instr) : lookupOpcode i.opcode opcodeTable = some i := by
  cases i <;> decide

/-- The fields of a command's own word. -/
theorem splitWord_encode (i : Instr) : splitWord (encode i) = { opc := i.opcode, rsv := 0 } := by
  cases i <;> decide

end Sys2Proof
end

