-- ==== Sys2Proof/Laws/Images.lean ====
section
/-! SUPPORT. What the shared operations of the commands do, in the terms of Safety.lean: a new image, a
drawing, and the header fields read from a stream. -/

namespace Sys2Proof.Machine

open Sys2Proof

/-! ### Header fields (40_codec.md R70, R71) -/

theorem State.le_two (s : State) (o : Nat) : s.le o 2 = s.u16At o := by
  simp [State.le, leSum, State.u16At]; omega

theorem State.le_four (s : State) (o : Nat) : s.le o 4 = s.u32At o := by
  simp [State.le, leSum, State.u32At]; omega

/-- The parsed header holds the fifteen fields of the stream. -/
theorem State.parseHeader_fields (s : State) : HeaderOfStream s s.parseHeader := by
  have h32 : ∀ o, (trunc32 (s.le o 4)).toNat = s.u32At o := fun o => by
    rw [trunc32_toNat (leSum_lt _ _ _), State.le_four]
  have h16 : ∀ o, (BitVec.ofNat 16 (s.le o 2)).toNat = s.u16At o := fun o => by
    rw [BitVec.toNat_ofNat, Nat.mod_eq_of_lt (show s.le o 2 < 2 ^ 16 from leSum_lt s.inByte o 2),
      State.le_two]
  constructor <;> first | exact h32 _ | exact h16 _

/-- R74 in the form of R73's two depths. -/
theorem stride_eq_rowBytes {w bpp : Nat} (h : bpp = 24 ∨ bpp = 32) : stride w bpp = rowBytes w bpp := by
  rcases h with rfl | rfl
  · simp [stride_24, rowBytes]; omega
  · simp [stride_32, rowBytes]; omega

/-! ### A new image (R80, R89, R91) -/

/-- Committing a header and a grid and completing is a new image. -/
theorem putImage_newImage {s : State} {w h : Nat} {hd : Header} {g : Grid} {px : Nat → Nat → Color}
    {f : ResultFlags} (hs : Grid.hasShape g w h = true)
    (hpx : ∀ x y, x < w → y < h → Grid.get? g x y = some (px x y)) :
    NewImage s ((s.putImage hd g).finish .none f) w h px f := by
  constructor
  · simp
  · simpa using hs
  · simpa using hpx
  · constructor <;> simp
  · constructor <;> simp [State.outByte]
  · constructor <;> simp [State.inByte]

/-- R90: the headers of a constructed image within capacity. -/
theorem constructedHeaders_spec {p : Params} (hp : p.wf = true) {w h bpp : Nat}
    (hb : bpp = 24 ∨ bpp = 32) (hc : overCapacity p w h = false) (hw : w < 2 ^ 32)
    (hh : h < 2 ^ 32) : IsConstructed (constructedHeaders w h bpp) w h bpp := by
  constructor <;> first | rfl | skip
  · exact fileBytes_toNat hp (depthOk_iff.2 hb) hc
  · exact trunc32_toNat hw
  · exact trunc32_toNat hh
  · rcases hb with rfl | rfl <;> rfl
  · exact pixSize_toNat hp (depthOk_iff.2 hb) hc

/-! ### A drawing (42_point_rect.md R94) -/

theorem State.inside_iff {s : State} {x y : Int} :
    s.Inside x y ↔ inBounds s.width s.height x y = true := by rw [inBounds_iff]; rfl

/-- Writing a grid that differs from PB exactly at the named pixels, and completing, is a drawing. -/
theorem putGrid_drawn {s : State} (hi : ImageFacts s) {g : Grid} {clip : Bool}
    {sel : Int → Int → Prop} {cl : Prop} (hs : Grid.hasShape g s.width s.height = true)
    (h1 : ∀ x y : Nat, s.Inside x y → sel x y → Grid.get? g x y = some s.latch.args.color0)
    (h2 : ∀ x y : Nat, s.Inside x y → ¬sel x y → Grid.get? g x y = Grid.get? s.pb x y)
    (h3 : clip = true ↔ cl) : Drawn s ((s.putGrid g).finish .none { clip := clip }) sel cl := by
  constructor <;> first | (simp; done) | skip
  · simpa using hs
  · simpa using h1
  · intro x y hn
    simp only [State.finish_pb, State.putGrid_pb]
    by_cases hin : s.Inside x y
    · exact h2 x y hin fun h => hn ⟨hin, h⟩
    · have : ¬(x < s.width ∧ y < s.height) := by
        intro h; apply hin; unfold State.Inside; omega
      rw [Grid.get?_eq_none hs this, Grid.get?_eq_none hi.shape this]
  · simpa using h3
  · constructor <;> simp [State.outByte]
  · constructor <;> simp [State.inByte]

/-- The pixels of the image are there (41_buffer.md R93). -/
theorem get?_of_inside {s : State} (hi : ImageFacts s) {x y : Nat} (h : s.Inside x y) :
    ∃ c, Grid.get? s.pb x y = some c := by
  obtain ⟨a, b, c, d⟩ := h
  exact Option.isSome_iff_exists.1 ((Grid.get?_isSome hi.shape x y).2 ⟨by omega, by omega⟩)

/-- Painting a selection is a drawing of it that does not clip. -/
theorem paint_drawn {s : State} (hi : ImageFacts s) {sb : Nat → Nat → Bool}
    {sel : Int → Int → Prop} (h : ∀ x y : Nat, sb x y = true ↔ sel x y) :
    Drawn s ((s.putGrid (Grid.paint s.pb sb s.opColor0)).finish .none {}) sel False := by
  refine putGrid_drawn hi (Grid.hasShape_paint hi.shape _ _) (fun x y hin hs => ?_)
    (fun x y hin hs => ?_) (by simp)
  · obtain ⟨c, hc⟩ := get?_of_inside hi hin
    rw [Grid.get?_paint, hc, Option.map_some, if_pos ((h x y).2 hs)]; rfl
  · obtain ⟨c, hc⟩ := get?_of_inside hi hin
    rw [Grid.get?_paint, hc, Option.map_some, if_neg fun h' => hs ((h x y).1 h')]

/-- Plotting a list of points is a drawing of them that clips when a point lies outside. -/
theorem drawPoints_drawn {s : State} (hi : ImageFacts s) (pts : List (Int × Int)) :
    Drawn s (s.drawPoints s.opColor0 pts) (fun x y => (x, y) ∈ pts)
      (∃ p ∈ pts, ¬s.Inside p.1 p.2) := by
  refine putGrid_drawn hi (plotAll_hasShape hi.shape _ _ _) (fun x y hin hs => ?_)
    (fun x y hin hs => ?_) ?_
  · obtain ⟨a, b, c, d⟩ := hin
    rw [get?_plotAll hi.shape _ _ _ _ _ (by omega) (by omega), if_pos hs]; rfl
  · obtain ⟨a, b, c, d⟩ := hin
    rw [get?_plotAll hi.shape _ _ _ _ _ (by omega) (by omega), if_neg hs]
  · rw [plotAll_clip]
    simp [State.inside_iff]

end Sys2Proof.Machine
end

