-- ==== Sys2Proof/Laws/PerInstr.lean ====
section
/-! SUPPORT. The per-instruction families of LAWS.json, one lemma per constructor of `Instr`. -/

namespace Sys2Proof.Laws.EncodingWellFormed

open Sys2Proof

/-- 30_encoding.md R61, R63, R65: the command's word is legal, and its row of R63's table is the only
one that R63's OPC column gives for its OPC. -/
def Statement (i : Instr) : Prop :=
  (splitWord (encode i)).wf = true ∧ (encode i).toNat = i.opcode.toNat ∧
    ∀ o, lookupOpcode o opcodeTable = some i ↔ o = i.opcode

theorem of_wf {i : Instr} (h : (splitWord (encode i)).wf = true)
    (hn : (encode i).toNat = i.opcode.toNat) : Statement i :=
  ⟨h, hn, fun _ => ⟨lookupOpcode_some, fun e => e ▸ lookupOpcode_opcode i⟩⟩

theorem decode : Statement .decode := of_wf (by decide) (by decide)
theorem encode : Statement .encode := of_wf (by decide) (by decide)
theorem construct : Statement .construct := of_wf (by decide) (by decide)
theorem constructC : Statement .constructC := of_wf (by decide) (by decide)
theorem getPixel : Statement .getPixel := of_wf (by decide) (by decide)
theorem setPixel : Statement .setPixel := of_wf (by decide) (by decide)
theorem drawLine : Statement .drawLine := of_wf (by decide) (by decide)
theorem drawCircle : Statement .drawCircle := of_wf (by decide) (by decide)
theorem rectOutline : Statement .rectOutline := of_wf (by decide) (by decide)
theorem rectFill : Statement .rectFill := of_wf (by decide) (by decide)
theorem drawTriangle : Statement .drawTriangle := of_wf (by decide) (by decide)
theorem upscale : Statement .upscale := of_wf (by decide) (by decide)

end Sys2Proof.Laws.EncodingWellFormed
end

