-- ==== Sys2Proof/Machine/Program.lean ====
section
/-! DEFINITION. The end of a host program (70_reset_and_hazards.md R130): the first point of the run
where its three conditions hold, and the state that is its observable result. -/

namespace Sys2Proof.Machine

/-- R130: the state at the first point, within `n` steps, where the host program has ended; `none`
where no such point is among them. -/
def State.programResult (n : Nat) (s : State) : Option State :=
  if s.programEnded then some s
  else
    match n with
    | 0 => none
    | k + 1 =>
      match step s with
      | .next t => State.programResult k t
      | .fault _ => none
      | .refused _ => none

end Sys2Proof.Machine
end

