-- ==== Sys2Proof/Laws/Program.lean ====
section
/-! SUPPORT. What `State.programResult` says (70_reset_and_hazards.md R130). -/

namespace Sys2Proof.Machine

/-- A program that has ended has its result at once: no later point counts. -/
theorem State.programResult_of_ended {s : State} (h : s.programEnded = true) (n : Nat) :
    s.programResult n = some s := by
  cases n <;> simp [State.programResult, h]

/-- A result is a state in which the program has ended. -/
theorem State.programResult_ended {n : Nat} {s t : State} (h : s.programResult n = some t) :
    t.programEnded = true := by
  induction n generalizing s with
  | zero =>
    unfold State.programResult at h
    split at h
    · rename_i he; cases h; exact he
    · cases h
  | succ k ih =>
    unfold State.programResult at h
    split at h
    · rename_i he; cases h; exact he
    · dsimp only at h
      split at h
      · exact ih h
      · cases h
      · cases h

end Sys2Proof.Machine
end

