-- ==== Sys2Proof/Laws/Step.lean ====
section
/-! SUPPORT. What one step can do, said once: an engine step (20_memory.md R55) is a command's effect or
ILLEGAL_CMD; a host turn is one access, the reset, or nothing, and changes STATUS in one of three
ways. The statements about steps are derived from these. -/

namespace Sys2Proof.Machine

open Sys2Proof

/-- R55, R62: the engine step does nothing, or has a command's effect. -/
theorem engineStep_effect {s t : State} (h : engineStep s = .next t) :
    (s.status.busy = false ∧ t = s) ∨ (s.status.busy = true ∧ CommandEffect s t) := by
  unfold engineStep at h
  split at h
  · rename_i hb
    split at h
    · exact .inr ⟨hb, exec_effect h⟩
    · cases h; exact .inr ⟨hb, .raised _ (by simp)⟩
  · rename_i hb; cases h; exact .inl ⟨by simpa using hb, rfl⟩

/-- The turn goes to one of the two agents (00_scope.md R5). -/
theorem State.nextAgent_cases (s : State) : s.nextAgent = .host ∨ s.nextAgent = .engine := by
  cases s.nextAgent <;> simp

/-- What the engine's turn does. -/
theorem step_engine {s t : State} (h : step s = .next t) (hn : s.nextAgent = .engine) :
    (s.status.busy = false ∧ t = s.takeTurn) ∨
    (s.status.busy = true ∧ CommandEffect s.takeTurn t ∧
      ((∃ i, s.EngineRuns i ∧ exec i s.takeTurn = .next t) ∨
        t = s.takeTurn.raise .illegalCmd)) := by
  unfold step at h
  rw [hn] at h
  simp only at h
  rcases engineStep_effect h with ⟨a, b⟩ | ⟨a, b⟩
  · exact .inl ⟨a, b⟩
  · refine .inr ⟨a, b, ?_⟩
    unfold engineStep at h
    rw [if_pos a] at h
    split at h
    · rename_i i hi
      exact .inl ⟨i, ⟨hn, a, hi⟩, h⟩
    · cases h; exact .inr rfl

/-- What the host's turn does. -/
theorem step_host {s t : State} (h : step s = .next t) (hn : s.nextAgent = .host) :
    (s.script = [] ∧ t = s.takeTurn) ∨
    (∃ a rest l sc,
      (s.script = .access a :: rest ∨ (s.script = .wait :: rest ∧ a = statusRead s.cfg)) ∧
      t = { (s.takeTurn.access a).1 with busLog := l, script := sc }) ∨
    (s.HostResets ∧ ∃ sc, t = { s.takeTurn.resetEvent with script := sc }) := by
  unfold step at h
  rw [hn] at h
  cases h
  unfold State.hostTurn
  cases hs : s.script with
  | nil => left; simp [hs]
  | cons o rest =>
    cases o with
    | access a =>
      right; left
      simp only [State.takeTurn_script, hs]
      exact ⟨a, rest, _, _, .inl rfl, rfl⟩
    | wait =>
      right; left
      simp only [State.takeTurn_script, hs]
      exact ⟨_, rest, _, _, .inr ⟨rfl, rfl⟩, rfl⟩
    | reset =>
      right; right
      simp only [State.takeTurn_script, hs]
      exact ⟨⟨hn, rest, hs⟩, _, rfl⟩

/-- A register found at an offset has that offset. -/
theorem regAt_some {off : Nat} {r : Reg} (h : regAt off = some r) : r.offset = off := by
  unfold regAt at h
  revert h
  generalize Reg.all = l
  induction l with
  | nil => simp [regIn]
  | cons q l ih =>
    rw [regIn]
    split
    · rintro ⟨⟩; assumption
    · exact ih

/-- Where no register has an offset, none is found (R38). -/
theorem regAt_none {off : Nat} (h : ∀ r : Reg, r.offset ≠ off) : regAt off = none := by
  unfold regAt
  generalize Reg.all = l
  induction l with
  | nil => rfl
  | cons q l ih => rw [regIn, if_neg (h q), ih]

/-- An address in the register window lies at its offset from REG_BASE (R44). -/
theorem windowAt_registers {p : Params} {a off : Nat} (h : windowAt p a = some (.registers, off)) :
    a = p.regBase + off := by
  unfold windowAt at h
  split at h
  · rename_i h2
    simp only [Bool.and_eq_true, decide_eq_true_eq] at h2
    simp only [Option.some.injEq, Prod.mk.injEq, true_and] at h
    omega
  · split at h
    · simp at h
    · split at h <;> simp at h

/-- A 4-byte write at a register's address does what the register's rule says. -/
theorem access_write_at {s : State} {ad v : Word} {r : Reg} (hp : s.cfg.wf = true)
    (h : ad.toNat = s.cfg.regBase + r.offset) :
    s.access (.write ad .four v) = (s.writeReg r v, some (.okay 0)) := by
  have e : ad = regAddr s.cfg r := by
    apply BitVec.eq_of_toNat_eq
    have := (Params.facts hp).regInside
    have := (Reg.offset_lt r).1
    rw [regAddr, trunc32_toNat (by omega), h]
  rw [e]; exact access_write_reg hp r v

/-- An access changes STATUS only as a write to CMD (R20) or to STATUS (R21). -/
theorem access_status (s : State) (a : Access) :
    (s.access a).1.status = s.status ∨
    (∃ v ad, a = .write ad .four v ∧ ad.toNat = s.cfg.regBase + Reg.cmd.offset ∧
      ((s.status.busy = false ∧ (s.access a).1 = s.acceptCmd v) ∨
        (s.status.busy = true ∧ (s.access a).1 = s.dropCmd))) ∨
    (∃ v ad, a = .write ad .four v ∧ ad.toNat = s.cfg.regBase + Reg.status.offset ∧
      (s.access a).1 = { s with status := s.status.writeOneToClear v }) := by
  cases a with
  | read a n => left; simp only [State.access]; split <;> rfl
  | write ad n v =>
    unfold State.access
    simp only
    split
    · rename_i off hoff
      have hw := windowAt_registers hoff
      unfold State.writeRegisters
      by_cases hok : regAccessOk ad.toNat n = true
      · rw [if_pos hok]
        have hn : n = .four := by
          unfold regAccessOk at hok
          cases n <;> simp [Size.bytes] at hok ⊢
        subst hn
        cases hr : regAt off with
        | none => left; rfl
        | some r =>
          have ho := regAt_some hr
          cases r
          case cmd =>
            right; left
            refine ⟨v, ad, rfl, by rw [hw, ← ho], ?_⟩
            simp only [State.writeReg, State.writeCmd]
            by_cases hb : s.status.busy = true
            · rw [if_pos hb]; exact .inr ⟨hb, rfl⟩
            · rw [if_neg hb]; exact .inl ⟨by simpa using hb, rfl⟩
          case status =>
            right; right
            exact ⟨v, ad, rfl, by rw [hw, ← ho], rfl⟩
          all_goals (left; rfl)
      · rw [if_neg hok]; left; rfl
    · left
      unfold State.writeInput
      split_ifs <;> rfl
    · left; rfl
    · left; rfl

/-- The host's turn changes STATUS only as a write to CMD, a write to STATUS, or the reset. -/
theorem step_host_status {s t : State} (h : step s = .next t) (hn : s.nextAgent = .host) :
    t.status = s.status ∨
    (∃ v, s.HostWrites .cmd v ∧
      ((s.status.busy = false ∧ t.status = s.status.accepted) ∨
        (s.status.busy = true ∧ t.status = s.status.dropped))) ∨
    (∃ v, s.HostWrites .status v ∧ t.status = s.status.writeOneToClear v) ∨
    (s.HostResets ∧ t.status = Status.zero) := by
  rcases step_host h hn with ⟨-, rfl⟩ | ⟨a, rest, l, sc, hs, rfl⟩ | ⟨hr, sc, rfl⟩
  · left; simp
  · rcases access_status s.takeTurn a with h1 | ⟨v, ad, rfl, had, h2⟩ | ⟨v, ad, rfl, had, h2⟩
    · left; simpa using h1
    · right; left
      rcases hs with hs | ⟨-, hs⟩
      · refine ⟨v, ⟨hn, ad, rest, hs, had⟩, ?_⟩
        rcases h2 with ⟨hb, h3⟩ | ⟨hb, h3⟩
        · exact .inl ⟨hb, by rw [h3]; rfl⟩
        · exact .inr ⟨hb, by rw [h3]; rfl⟩
      · cases hs
    · right; right; left
      rcases hs with hs | ⟨-, hs⟩
      · exact ⟨v, ⟨hn, ad, rest, hs, had⟩, by rw [h2]; rfl⟩
      · cases hs
  · exact .inr (.inr (.inr ⟨hr, rfl⟩))

end Sys2Proof.Machine
end

