-- ==== Sys2Proof/Tests/Slice0.lean ====
section
/-! SUPPORT. The model's own tests. The expected values are those of spec/95_test_vectors.md (the
vector is named in each docstring) or are worked out by hand from the rule named. Section 4 holds, for
every statement with hypotheses, a witness that meets them. -/

set_option Elab.async false

namespace Sys2Proof.Tests

open Sys2Proof Sys2Proof.Machine

/-! ## 1. Well-formedness, memory and decoding -/

/-- R65: the word's RSV must be 0. -/
theorem test_wf_refuses_rsv : (splitWord 0x00000101).rsvZero = false ∧
    (splitWord 0x80000020).wf = false ∧ (splitWord 0x00000120).wf = false := by decide

/-- R65: both ends of each of the four ranges of illegal OPC values. -/
theorem test_wf_refuses_opc :
    ([0x00, 0x06, 0x0F, 0x16, 0x1F, 0x21, 0xFF] : List Word).map (fun o => (splitWord o).wf)
      = List.replicate 7 false := by decide

/-- R63: the OPC values beside those ranges are assigned. -/
theorem test_wf_accepts_opc :
    ([0x01, 0x05, 0x10, 0x15, 0x20] : List Word).map (fun o => (splitWord o).wf)
      = List.replicate 5 true := by decide

/-- R6: the default parameters meet the constraints. -/
theorem test_params_default : ({} : Params).wf = true := by decide

/-- R6: each constraint on the extents, broken alone. -/
theorem test_params_refuse_extents :
    ({ maxW := 0, maxPixels := 0 } : Params).extentsOk = false ∧
    ({ maxW := 2 ^ 32 } : Params).extentsOk = false ∧ ({ maxH := 0 } : Params).extentsOk = false ∧
    ({ maxH := 2 ^ 32 } : Params).extentsOk = false ∧
    ({ maxPixels := 0 } : Params).extentsOk = false ∧
    ({ maxW := 4, maxH := 4, maxPixels := 17 } : Params).extentsOk = false ∧
    ({ maxW := 2 ^ 16, maxH := 2 ^ 16, maxPixels := 2 ^ 30 } : Params).extentsOk = false := by
  decide

/-- R6: each constraint on the capacities, broken alone. -/
theorem test_params_refuse_caps : ({ inCap := 53 } : Params).capsOk = false ∧
    ({ inCap := 2 ^ 32 } : Params).capsOk = false ∧
    ({ maxPixels := 10, outCap := 93 } : Params).capsOk = false ∧
    ({ maxPixels := 10, outCap := 94 } : Params).capsOk = true ∧
    ({ outCap := 2 ^ 32 } : Params).capsOk = false := by decide

/-- R6: each constraint on the windows, broken alone. -/
theorem test_params_refuse_windows : ({ regBase := 0x40000800 } : Params).windowsOk = false ∧
    ({ inBase := 0x50000002 } : Params).windowsOk = false ∧
    ({ outBase := 0x60000001 } : Params).windowsOk = false ∧
    ({ regBase := 2 ^ 32 } : Params).windowsOk = false ∧
    ({ inBase := 0xFFFFFFF0 } : Params).windowsOk = false ∧
    ({ outBase := 0xFFFFFFF0 } : Params).windowsOk = false ∧
    ({ inBase := 0x40000FFC } : Params).windowsOk = false ∧
    ({ outBase := 0x40000FFC } : Params).windowsOk = false ∧
    ({ outBase := 0x507FFFFC } : Params).windowsOk = false := by decide

/-- The canonical form refuses a repeated and a falling index; a write keeps the order, and writing an
index again replaces its entry. -/
theorem test_memory : Memory.wf [(3, 0), (3, 1)] = false ∧ Memory.wf [(4, 0), (3, 1)] = false ∧
    Memory.write [(1, 7), (5, 8)] 3 9 = [(1, 7), (3, 9), (5, 8)] ∧
    Memory.write [(1, 7), (5, 8)] 5 9 = [(1, 7), (5, 9)] := by decide

/-- R61, R63: each command's word, written bit by bit: RSV (24 zeros), then OPC. -/
theorem test_decode_codec_and_buffer :
    decodeTableWord 32 0b000000000000000000000000_00000001 = some .decode ∧
    decodeTableWord 32 0b000000000000000000000000_00000010 = some .encode ∧
    decodeTableWord 32 0b000000000000000000000000_00000011 = some .construct ∧
    decodeTableWord 32 0b000000000000000000000000_00000100 = some .constructC ∧
    decodeTableWord 32 0b000000000000000000000000_00000101 = some .getPixel := by decide

theorem test_decode_drawing :
    decodeTableWord 32 0b000000000000000000000000_00010000 = some .setPixel ∧
    decodeTableWord 32 0b000000000000000000000000_00010001 = some .drawLine ∧
    decodeTableWord 32 0b000000000000000000000000_00010010 = some .drawCircle ∧
    decodeTableWord 32 0b000000000000000000000000_00010011 = some .rectOutline ∧
    decodeTableWord 32 0b000000000000000000000000_00010100 = some .rectFill ∧
    decodeTableWord 32 0b000000000000000000000000_00010101 = some .drawTriangle ∧
    decodeTableWord 32 0b000000000000000000000000_00100000 = some .upscale := by decide

/-- CMD-1, CMD-2, CMD-3, CMD-5, CMD-6, CMD-7; and RSV is tested before OPC gives a row. -/
theorem test_decode_illegal : decode 0x00000000 = .error .unassignedOpcode ∧
    decode 0x00000101 = .error .reservedBits ∧ decode 0x00000006 = .error .unassignedOpcode ∧
    decode 0x00000016 = .error .unassignedOpcode ∧ decode 0x000000FF = .error .unassignedOpcode ∧
    decode 0x80000020 = .error .reservedBits := by decide

/-- R45, R69: the bytes of a word, the least significant at the lowest address. -/
theorem test_decode_bytes : decodeBytes [0x11, 0, 0, 0, 0xAA] = .ok (.drawLine, [0xAA]) ∧
    decodeBytes [0, 0, 0, 0x11] = .error .reservedBits ∧
    decodeBytes [0x11, 0, 0] = .error .shortWord ∧ encodeBytes .drawLine = [0x11, 0, 0, 0] := by
  decide

/-! ## 2. Commands -/

/-- The block after reset, with spec/95's parameters. -/
def idle : State := State.resetWith {} 0

/-- The parameters of the vectors that say MAX_W = 4. -/
def small : Params := { maxW := 4, maxPixels := 16384 }

/-- The state "right after the CONSTRUCT" of a vector: STATUS = 0x0006 (R90). -/
def image (w h bpp : Nat) (c : Color) (p : Params := {}) : State :=
  { State.resetWith p 0 with
    hdr := constructedHeaders w h bpp
    pb := Grid.filled w h c
    status := { Status.zero with done := true, valid := true } }

/-- The command accepted with these arguments (R20): its engine step comes next. -/
def issued (i : Instr) (a : Args) (s : State) : State := { s with args := a }.acceptCmd (encode i)

/-- The state after the engine step of the command. -/
def after (i : Instr) (a : Args) (s : State) : Option State :=
  match step (issued i a s) with
  | .next t => some t
  | .fault _ => none
  | .refused _ => none

/-- STATUS after the command. -/
def statusAfter (i : Instr) (a : Args) (s : State) : Option Nat :=
  (after i a s).map fun t => t.status.word.toNat

/-- PB after the command, one row a line: `#` is green, `X` black, `.` anything else. -/
def picture (i : Instr) (a : Args) (s : State) : Option (List (List Char)) :=
  (after i a s).map fun t => t.pb.map fun row => row.map fun c =>
    if c = 0xFF00FF00 then '#' else if c = 0xFF000000 then 'X' else '.'

def rows (l : List String) : Option (List (List Char)) := some (l.map String.toList)

def green : Color := 0xFF00FF00
def white : Color := 0xFFFFFFFF

/-- The stream of a header written by hand (R70) and its pixel bytes, in IN_BUF. -/
def loaded (n : Nat) (bytes : List Byte) (p : Params := {}) : State :=
  { State.resetWith p 0 with
    inLen := BitVec.ofNat 32 n
    inBuf := bytes.zipIdx.map fun q => (q.2, q.1) }

/-- CODEC-3's header bytes, with the signature's second byte, the info size's first, the width, the
depth and the compression as given. -/
def headerBytes (m info w bpp comp : Byte) : List Byte :=
  [0x42, m, 0x42, 0, 0, 0, 0, 0, 0, 0, 0x36, 0, 0, 0, info, 0, 0, 0, w, 0, 0, 0, 2, 0, 0, 0, 1, 0,
   bpp, 0, comp, 0, 0, 0, 0x0C, 0, 0, 0, 0, 0, 0, 0, 0, 0, 0, 0, 0, 0, 0, 0, 0, 0, 0, 0]

/-- CODEC-3's pixel bytes with the four padding bytes EE and FF, as in CODEC-7. -/
def pixelBytes : List Byte :=
  [0x10, 0x20, 0x30, 0x11, 0x21, 0x31, 0xEE, 0xFF, 0x12, 0x22, 0x32, 0x13, 0x23, 0x33, 0xEE, 0xFF]

def stream : List Byte := headerBytes 0x4D 40 2 24 0 ++ pixelBytes

/-- CODEC-3, CODEC-7: row 0 first, B then G then R, alpha 255, padding not checked; with one byte
more, WARN_TRAIL; with an info size of 124, WARN_HDRSIZE (CODEC-8). -/
theorem test_decode_image :
    (after .decode Args.zero (loaded 70 stream)).map
      (fun t => (t.pb, t.hdr.fileSize.toNat, t.status.word.toNat))
      = some ([[0xFF302010, 0xFF312111], [0xFF322212, 0xFF332313]], 66, 0x0006) ∧
    statusAfter .decode Args.zero (loaded 71 stream) = some 0x0016 ∧
    statusAfter .decode Args.zero (loaded 71 (headerBytes 0x4D 124 2 24 0 ++ pixelBytes))
      = some 0x0036 := by decide +kernel

/-- CODEC-10 and EX-3, EX-4: the six errors; the depth is checked before the compression and the
capacity before the truncation. -/
theorem test_decode_errors :
    statusAfter .decode Args.zero (loaded 53 stream) = some 0x0102 ∧
    statusAfter .decode Args.zero (loaded 70 (headerBytes 0x4E 40 2 24 0)) = some 0x0202 ∧
    statusAfter .decode Args.zero (loaded 70 (headerBytes 0x4D 40 2 16 1)) = some 0x0302 ∧
    statusAfter .decode Args.zero (loaded 70 (headerBytes 0x4D 40 2 24 1)) = some 0x0402 ∧
    statusAfter .decode Args.zero (loaded 69 stream) = some 0x0502 ∧
    statusAfter .decode Args.zero (loaded 54 (headerBytes 0x4D 40 5 32 0) small) = some 0x1302 := by
  decide +kernel

/-- The bytes of OUT_BUF from `o` on after the command. -/
def outAfter (o n : Nat) (s : State) : Option (List Byte) :=
  (after .encode Args.zero s).map fun t => (List.range n).map fun k => t.outByte (o + k)

/-- CODEC-2: all 58 bytes at 32 bpp. -/
theorem test_encode_32 : outAfter 0 58 (image 1 1 32 0x04030201) = some
    [0x42, 0x4D, 0x3A, 0, 0, 0, 0, 0, 0, 0, 0x36, 0, 0, 0, 0x28, 0, 0, 0, 1, 0, 0, 0, 1, 0, 0, 0, 1, 0,
     0x20, 0, 0, 0, 0, 0, 4, 0, 0, 0, 0, 0, 0, 0, 0, 0, 0, 0, 0, 0, 0, 0, 0, 0, 0, 0, 1, 2, 3, 4] := by
  decide +kernel

/-- CODEC-5: padding and OUT_LEN = 78 at 24 bpp; CODEC-12: NO_IMAGE. -/
theorem test_encode_24 :
    outAfter 54 24 (image 3 2 24 0xFF030201) = some
      [1, 2, 3, 1, 2, 3, 1, 2, 3, 0, 0, 0, 1, 2, 3, 1, 2, 3, 1, 2, 3, 0, 0, 0] ∧
    (after .encode Args.zero (image 3 2 24 0)).map (fun t => t.outLen.toNat) = some 78 ∧
    statusAfter .encode Args.zero idle = some 0x1102 := by decide +kernel

def argsConstruct (w h bpp : Word) : Args :=
  { Args.zero with w := w, h := h, bppArg := bpp, color0 := white, color1 := 0xFF000000 }

/-- BUF-1 at 2 by 3: the headers and every pixel. -/
theorem test_construct_image :
    (after .construct (argsConstruct 2 3 32) idle).map
      (fun t => (t.pb, t.hdr.width.toNat, t.hdr.height.toNat, t.hdr.fileSize.toNat,
        t.hdr.pixelDataSize.toNat, t.status.word.toNat))
      = some (List.replicate 3 [white, white], 2, 3, 78, 24, 0x0006) := by decide +kernel

/-- BUF-5: BAD_ARG before CAPACITY. -/
theorem test_construct_errors :
    statusAfter .construct (argsConstruct 1 1 8) (State.resetWith small 0) = some 0x1202 ∧
    statusAfter .construct (argsConstruct 5 1 24) (State.resetWith small 0) = some 0x1302 ∧
    statusAfter .construct (argsConstruct 5 1 8) (State.resetWith small 0) = some 0x1202 := by
  decide +kernel

/-- BUF-2 and BUF-3: the centre is row h/2, column w/2. -/
theorem test_constructC_centre :
    picture .constructC (argsConstruct 4 3 24) idle = rows ["....", "..X.", "...."] ∧
    picture .constructC (argsConstruct 2 2 24) idle = rows ["..", ".X"] := by decide +kernel

/-- BUF-5: INDEX on an empty extent, after CAPACITY; VALID stays 0. -/
theorem test_constructC_errors :
    statusAfter .constructC (argsConstruct 0 3 24) idle = some 0x0802 ∧
    statusAfter .constructC (argsConstruct 5 0 24) (State.resetWith small 0) = some 0x1302 := by
  decide +kernel

/-- A 2 by 2 image whose four pixels differ: A B over C D. -/
def abcd : State := { image 2 2 32 0 with pb := [[0xA, 0xB], [0xC, 0xD]] }

def argsAt (x y : Word) : Args := { Args.zero with x0 := x, y0 := y, color0 := green }

/-- R92: x is the column and y the row. -/
theorem test_getPixel_reads :
    (after .getPixel (argsAt 1 0) abcd).map (fun t => (t.result, t.status.word.toNat))
      = some (0xB, 0x0006) := by decide +kernel

/-- BUF-2, BUF-5: INDEX one past the end and at -1, RESULT kept; NO_IMAGE. -/
theorem test_getPixel_errors :
    (after .getPixel (argsAt 2 0) { abcd with result := 0x77 }).map
      (fun t => (t.result, t.status.word.toNat)) = some (0x77, 0x0806) ∧
    statusAfter .getPixel (argsAt 0xFFFFFFFF 0) abcd = some 0x0806 ∧
    statusAfter .getPixel (argsAt 0 0) idle = some 0x1102 := by decide +kernel

/-- PT-4 and PT-3: the neighbourhood, and only the centre for t <= 1. -/
theorem test_setPixel_neighbourhood :
    picture .setPixel { argsAt 4 4 with thick := 3 } (image 5 5 24 0)
      = rows [".....", ".####", ".####", ".####", ".####"] ∧
    picture .setPixel { argsAt 2 2 with thick := 1 } (image 5 5 24 0)
      = rows [".....", ".....", "..#..", ".....", "....."] ∧
    statusAfter .setPixel { argsAt 4 4 with thick := 3 } (image 5 5 24 0) = some 0x0006 := by
  decide +kernel

/-- PT-2, PT-5: a centre out of bounds paints nothing and sets CLIP. -/
theorem test_setPixel_clips :
    statusAfter .setPixel { argsAt 5 0 with thick := 1 } (image 5 5 24 0) = some 0x000E ∧
    picture .setPixel { argsAt 0xFFFFFFFF 2 with thick := 3 } (image 3 3 24 0)
      = rows ["...", "...", "..."] := by decide +kernel

def argsRect (x y w h : Word) : Args := { argsAt x y with w := w, h := h }

/-- RECT-5 and RECT-6. -/
theorem test_rectOutline_edges :
    picture .rectOutline (argsRect 0 0 4 4) (image 4 4 24 0)
      = rows ["####", "#..#", "#..#", "####"] ∧
    picture .rectOutline (argsRect 1 0 1 4) (image 4 4 24 0)
      = rows [".#..", ".#..", ".#..", ".#.."] := by decide +kernel

/-- RECT-7: no interior; an empty rectangle paints nothing. -/
theorem test_rectOutline_small :
    picture .rectOutline (argsRect 0 0 2 2) (image 3 2 24 0) = rows ["##.", "##."] ∧
    picture .rectOutline (argsRect 0 0 0 0) (image 3 2 24 0) = rows ["...", "..."] := by
  decide +kernel

/-- RECT-2. -/
theorem test_rectFill_fills : picture .rectFill (argsRect 1 1 2 2) (image 4 4 24 0)
    = rows ["....", ".##.", ".##.", "...."] := by decide +kernel

/-- RECT-3, RECT-4, RECT-8. -/
theorem test_rectFill_errors :
    statusAfter .rectFill (argsRect 3 0 2 1) (image 4 4 24 0) = some 0x0806 ∧
    statusAfter .rectFill (argsRect 0xFFFFFFFF 0 1 1) (image 4 4 24 0) = some 0x0806 ∧
    statusAfter .rectFill (argsRect 4 0 0 3) (image 4 4 24 0) = some 0x0006 ∧
    statusAfter .rectFill (argsRect 0 0 1 1) idle = some 0x1102 := by decide +kernel

/-- LINE-4, LINE-6 and LINE-11: y steps down, and the endpoints are swapped whole. -/
theorem test_linePoints :
    linePoints 0 0 5 2 = [(0, 0), (1, 0), (2, 1), (3, 1), (4, 2), (5, 2)] ∧
    linePoints 0 5 6 1 = [(0, 5), (1, 4), (2, 4), (3, 3), (4, 2), (5, 2), (6, 1)] ∧
    linePoints 0 0 (-3) 1 = [(-3, 1), (-2, 1), (-1, 0), (0, 0)] := by decide +kernel

/-- LINE-15: clipped at both ends, CLIP set. -/
theorem test_drawLine_clips :
    picture .drawLine { argsAt 0xFFFFFFFE 1 with x1 := 5, y1 := 1 } (image 4 4 24 0)
      = rows ["....", "####", "....", "...."] ∧
    statusAfter .drawLine { argsAt 0xFFFFFFFE 1 with x1 := 5, y1 := 1 } (image 4 4 24 0)
      = some 0x000E ∧
    statusAfter .drawLine { argsAt 0 0 with x1 := 3, y1 := 3 } (image 4 4 24 0) = some 0x0006 := by
  decide +kernel

/-- CIRC-7: the quarter in bounds, CLIP set. -/
theorem test_drawCircle_clips :
    picture .drawCircle { argsAt 0 0 with radius := 2 } (image 4 4 24 0)
      = rows ["..#.", "..#.", "##..", "...."] ∧
    statusAfter .drawCircle { argsAt 0 0 with radius := 2 } (image 4 4 24 0) = some 0x000E := by
  decide +kernel

/-- CIRC-4's count, and CIRC-6: a negative radius draws nothing. -/
theorem test_circlePoints : (circlePoints 0 0 3).dedup.length = 16 ∧
    statusAfter .drawCircle { argsAt 0 0 with radius := 0xFFFFFFFF } (image 1 1 24 0)
      = some 0x0006 := by decide +kernel

def argsTriangle (x1 y1 x2 y2 : Word) : Args :=
  { argsAt 0 0 with x1 := x1, y1 := y1, x2 := x2, y2 := y2 }

/-- TRI-1. -/
theorem test_drawTriangle : picture .drawTriangle (argsTriangle 4 0 0 4) (image 5 5 24 0)
    = rows ["#####", "#..#.", "#.#..", "##...", "#...."] := by decide +kernel

/-- TRI-3: clipped, with the one point of the far edge. -/
theorem test_drawTriangle_clips :
    picture .drawTriangle (argsTriangle 8 0 0 8) (image 5 5 24 0)
      = rows ["#####", "#....", "#....", "#....", "#...#"] ∧
    statusAfter .drawTriangle (argsTriangle 8 0 0 8) (image 5 5 24 0) = some 0x000E := by
  decide +kernel

/-- UP-1: each pixel becomes a 2 by 2 block, and the four sizes. -/
theorem test_upscale :
    (after .upscale { Args.zero with factor := 2 } abcd).map
      (fun t => (t.pb, t.hdr.width.toNat, t.hdr.height.toNat, t.hdr.pixelDataSize.toNat,
        t.hdr.fileSize.toNat))
      = some ([[0xA, 0xA, 0xB, 0xB], [0xA, 0xA, 0xB, 0xB], [0xC, 0xC, 0xD, 0xD],
          [0xC, 0xC, 0xD, 0xD]], 4, 4, 64, 118) := by decide +kernel

/-- UP-4: BAD_ARG, CAPACITY (MAX_W = 4, factor 3), and NO_IMAGE first. -/
theorem test_upscale_errors :
    statusAfter .upscale Args.zero abcd = some 0x1206 ∧
    statusAfter .upscale { Args.zero with factor := 3 } (image 2 2 24 0 small) = some 0x1306 ∧
    statusAfter .upscale Args.zero idle = some 0x1102 := by decide +kernel

/-- CMD-2, section 2.7: an illegal word on a block with an image gives 0x1006. -/
theorem test_illegal_word :
    (match step ((image 2 2 24 0).acceptCmd 0x00000101) with
      | .next t => t.status.word
      | .fault _ => 0
      | .refused _ => 0) = 0x1006 := by decide +kernel

/-! ## 3. The bus, STATUS, the interrupt, reset and scripts -/

/-- The data and the kind of a response. -/
def answer (s : State) (a : Access) : Option (RespKind × Nat) :=
  (s.access a).2.map fun r => (r.kind, r.data.toNat)

/-- BUS-1, BUS-3, BUS-4, BUS-9: the register window. -/
theorem test_bus_registers :
    answer idle (.read 0x4000000C .four) = some (.okay, 0x43504249) ∧
    answer idle (.read 0x40000004 .two) = some (.slverr, 0) ∧
    answer idle (.read 0x40000006 .four) = some (.slverr, 0) ∧
    answer idle (.read 0x40000080 .four) = some (.okay, 0) ∧
    answer idle (.write 0x40000080 .four 1) = some (.okay, 0) := by decide +kernel

/-- BUS-2, BUS-10, BUS-12: IN_LEN is clamped, HDR_WIDTH is read-only, CTRL keeps bit 0. -/
theorem test_bus_writes :
    (idle.access (.write 0x40000048 .four 0xFFFFFFFF)).1.inLen.toNat = 8388608 ∧
    (idle.access (.write 0x40000114 .four 0x12345678)).1 = idle ∧
    answer (idle.access (.write 0x40000008 .four 0xFFFFFFFF)).1 (.read 0x40000008 .four)
      = some (.okay, 1) := by decide +kernel

/-- BUS-5 to BUS-8: the input window is little-endian and aligned; the output window is read-only. -/
theorem test_bus_buffers :
    answer (loaded 4 [1, 2, 3, 4]) (.read 0x50000000 .four) = some (.okay, 0x04030201) ∧
    answer (loaded 4 [1, 2, 3, 4]) (.read 0x50000002 .two) = some (.okay, 0x0403) ∧
    answer (loaded 4 [1, 2, 3, 4]) (.read 0x50000001 .two) = some (.slverr, 0) ∧
    (idle.access (.write 0x50000004 .two 0xAABBCCDD)).1.inBuf = [(4, 0xDD), (5, 0xCC)] ∧
    answer idle (.write 0x60000000 .one 7) = some (.slverr, 0) := by decide +kernel

/-- BUS-11: W1C on STATUS = 0x1046. -/
theorem test_status_w1c :
    ({ idle with status := { Status.zero with
        done := true, valid := true, cmdLost := true, err := .illegalCmd } }.access
      (.write 0x40000004 .four 0xFFFFFFFF)).1.status.word = 0x1004 := by decide +kernel

/-- BUS-13, BUS-14, BUS-15: while BUSY = 1. -/
theorem test_busy :
    answer (issued .encode Args.zero abcd) (.read 0x50000000 .four) = some (.slverr, 0) ∧
    ((issued .encode Args.zero abcd).access (.write 0x40000000 .four 0x14)).1.cmd = 2 ∧
    ((issued .encode Args.zero abcd).access (.write 0x40000000 .four 0x14)).1.status.cmdLost = true ∧
    ((issued .encode Args.zero abcd).access (.write 0x40000010 .four 7)).1.latch.args.x0 = 0 := by
  decide +kernel

/-- IRQ-1, IRQ-3: the line follows DONE and IRQ_EN; acceptance does not clear DONE. -/
theorem test_irq :
    (after .encode Args.zero { idle with irqEn := true }).map State.irq = some true ∧
    (after .encode Args.zero idle).map State.irq = some false ∧
    (issued .encode Args.zero abcd).status.done = true := by decide +kernel

/-- RST-1: a reset while a command runs: STATUS reads 0, no image, and the command is gone. -/
theorem test_reset :
    (match step { issued .encode Args.zero abcd with script := [.reset], turns := [.host] } with
      | .next t => (t.status.word, t.pb, t.hdr, t.irq)
      | .fault _ => (1, [], Header.zero, true)
      | .refused _ => (1, [], Header.zero, true)) = (0, [], Header.zero, false) := by decide +kernel

/-- R67 to R69: a line's text, its expansion and its writes. -/
theorem test_script :
    parseScript "SET_PIXEL -1, 2, 0xFF00FF00, 3 ; a comment"
      = .ok [.setPixel (-1) 2 0xFF00FF00 3] ∧
    scriptOps {} [.setPixel (-1) 2 0xFF00FF00 3] =
      [.access (.write 0x40000010 .four 0xFFFFFFFF), .access (.write 0x40000014 .four 2),
       .access (.write 0x40000040 .four 0xFF00FF00), .access (.write 0x40000034 .four 3),
       .access (.write 0x40000000 .four 0x10), .wait] := by decide +kernel

/-- R130: the program has ended once STATUS has been read with no access left and BUSY = 0; a reset
still to come is no access, a WAIT makes one. -/
theorem test_program_end :
    { idle with busLog := [(statusRead {}, some (.okay 6))] }.programEnded = true ∧
    { idle with busLog := [(statusRead {}, some (.okay 6))], script := [.reset] }.programEnded = true ∧
    { idle with busLog := [(statusRead {}, some (.okay 6))], script := [.wait] }.programEnded = false ∧
    idle.programEnded = false := by decide +kernel

/-- R130: the end is the first point: with a reset after the read of STATUS, the result is the state
before the reset. -/
theorem test_program_result :
    (({ abcd with script := [.access (statusRead abcd.cfg), .reset] } : State).programResult 3).map
      (fun t => (t.status.valid, t.script)) = some (true, [.reset]) := by decide +kernel

/-! ## 4. Witnesses: each theorem meets the hypotheses of the statement it is named after, one
conjunct for each clause that has hypotheses -/

/-- Who moves next, and what the host does next. -/
def hostDoes (o : HostOp) (s : State) : State := { s with script := [o], turns := [.host] }

def writes (addr v : Word) (s : State) : State := hostDoes (.access (.write addr .four v)) s

theorem idle_inv : Inv idle := by constructor <;> decide +kernel

theorem abcd_inv : Inv abcd := by constructor <;> decide +kernel

theorem abcd_image : HasImage abcd := ⟨by decide, by decide +kernel⟩

/-- A running command on an image: Inv holds there too. -/
theorem running_inv : Inv (issued .upscale { Args.zero with factor := 2 } abcd) := by
  constructor <;> decide +kernel

/-- Both ends of R61's fields: the lowest and the highest reserved bit, the least and the greatest
illegal OPC, and a legal word. -/
theorem witness_EngineStepDecodesTheLatchedWord :
    (idle.acceptCmd 0x00000101).status.busy = true ∧
    (idle.acceptCmd 0x00000101).latch.cmd.extractLsb' 8 24 ≠ 0 ∧
    (idle.acceptCmd 0x80000020).latch.cmd.extractLsb' 8 24 ≠ 0 ∧
    (∀ i : Instr, (idle.acceptCmd 0x00).latch.cmd.extractLsb' 0 8 ≠ i.opcode) ∧
    (∀ i : Instr, (idle.acceptCmd 0xFF).latch.cmd.extractLsb' 0 8 ≠ i.opcode) ∧
    (idle.acceptCmd 0x20).latch.cmd.extractLsb' 8 24 = 0 ∧
    (idle.acceptCmd 0x20).latch.cmd.extractLsb' 0 8 = Instr.upscale.opcode := by
  refine ⟨by decide, by decide, by decide, fun i => ?_, fun i => ?_, by decide, by decide⟩ <;>
    cases i <;> decide

theorem witness_IllegalWordCompletesWithoutEffect :
    abcd.cfg.wf = true ∧ abcd.status.busy = false ∧ (splitWord 0x21).wf = false := by decide +kernel

theorem witness_StepRunsTheDecodedCommand : (issued .encode Args.zero abcd).EngineRuns .encode :=
  ⟨by decide, by decide, by rfl⟩

theorem witness_HostTurnIsOneAccess :
    (writes 0x40000000 3 idle).nextAgent = .host ∧
    (writes 0x40000000 3 idle).script = [.access (.write 0x40000000 .four 3)] := by decide

theorem witness_IdleEngineChangesNothing :
    ({ idle with turns := [.engine] }).nextAgent = .engine ∧
    ({ idle with turns := [.engine] }).status.busy = false := by decide

/-- Once with BUSY = 1 and once with BUSY = 0. -/
theorem witness_WaitReadsStatusUntilIdle : idle.cfg.wf = true ∧
    (hostDoes .wait (issued .encode Args.zero abcd)).nextAgent = .host ∧
    (hostDoes .wait (issued .encode Args.zero abcd)).script = [.wait] ∧
    (hostDoes .wait (issued .encode Args.zero abcd)).status.busy = true ∧
    (hostDoes .wait idle).nextAgent = .host ∧ (hostDoes .wait idle).script = [.wait] := by
  decide +kernel

theorem witness_EveryStepKeepsTheInvariant :
    ∃ t, Inv (issued .upscale { Args.zero with factor := 2 } abcd) ∧
      step (issued .upscale { Args.zero with factor := 2 } abcd) = .next t := ⟨_, running_inv, rfl⟩

theorem witness_StepNeverStops : Inv abcd := abcd_inv

theorem witness_BusyClearsWithinTheFixedTurns :
    Inv (issued .upscale { Args.zero with factor := 2 } abcd) ∧
      (issued .upscale { Args.zero with factor := 2 } abcd).status.busy = true :=
  ⟨running_inv, by decide⟩

/-- VALID from 0 to 1 by CONSTRUCT, and from 1 to 0 by reset. -/
theorem witness_ValidChangesOnlyByConstructionOrReset :
    (∃ t, step (issued .construct (argsConstruct 1 1 24) idle) = .next t ∧
      t.status.valid ≠ (issued .construct (argsConstruct 1 1 24) idle).status.valid) ∧
    ∃ t, step (hostDoes .reset abcd) = .next t ∧
      t.status.valid ≠ (hostDoes .reset abcd).status.valid :=
  ⟨⟨_, rfl, by decide +kernel⟩, ⟨_, rfl, by decide +kernel⟩⟩

/-- Set by an accepted write, cleared by completion, and a refused access to each buffer window. -/
theorem witness_BusySetOnlyByAcceptedCommand :
    (∃ t, step (writes 0x40000000 2 abcd) = .next t ∧ abcd.status.busy = false ∧
      t.status.busy = true) ∧
    (∃ t, step (issued .encode Args.zero idle) = .next t ∧
      (issued .encode Args.zero idle).status.busy = true ∧ t.status.busy = false) ∧
    (issued .encode Args.zero abcd).status.busy = true ∧
    windowAt {} (0x50000000 : Word).toNat = some (.input, 0) ∧
    windowAt {} (0x607FFFFF : Word).toNat = some (.output, 8388607) :=
  ⟨⟨_, rfl, by decide +kernel, by decide +kernel⟩, ⟨_, rfl, by decide +kernel, by decide +kernel⟩,
    by decide +kernel, by decide +kernel, by decide +kernel⟩

theorem witness_DoneIsStickyUntilCleared :
    (∃ t, step (issued .encode Args.zero idle) = .next t ∧
      (issued .encode Args.zero idle).nextAgent = .engine ∧
      (issued .encode Args.zero idle).status.busy = true) ∧
    (∃ t, step (writes 0x40000004 2 abcd) = .next t ∧ abcd.status.done = true ∧
      t.status.done = false) ∧
    ∃ t, step (hostDoes .reset abcd) = .next t ∧ abcd.status.done = true ∧ t.status.done = false :=
  ⟨⟨_, rfl, by decide, by decide⟩, ⟨_, rfl, by decide +kernel, by decide +kernel⟩,
    ⟨_, rfl, by decide +kernel, by decide +kernel⟩⟩

/-- A second CMD write while the first command runs; a W1C write of CMD_LOST. -/
theorem witness_CmdLostIsStickyUntilCleared : abcd.cfg.wf = true ∧
    (∃ t, step (writes 0x40000000 2 (issued .encode Args.zero abcd)) = .next t ∧
      (writes 0x40000000 2 (issued .encode Args.zero abcd)).HostWrites .cmd 2 ∧
      (issued .encode Args.zero abcd).status.busy = true ∧
      (issued .encode Args.zero abcd).status.cmdLost = false ∧ t.status.cmdLost = true) ∧
    ∃ t, step (writes 0x40000004 0x40 { abcd with
        status := { abcd.status with cmdLost := true } }) = .next t ∧ t.status.cmdLost = false :=
  ⟨by decide +kernel,
    ⟨_, rfl, ⟨by decide, _, _, rfl, by decide⟩, by decide, by decide, by decide +kernel⟩,
    ⟨_, rfl, by decide +kernel⟩⟩

/-- SET_PIXEL writes neither VALID, HDR_*, RESULT nor OUT_*; ENCODE not PB. -/
theorem witness_CommandsWriteOnlyTheirRows :
    (∃ t, exec .setPixel abcd = .next t ∧ ¬Instr.setPixel.WritesValid ∧
      ¬Instr.setPixel.WritesHeader ∧ Instr.setPixel ≠ .getPixel ∧ Instr.setPixel ≠ .encode) ∧
    ∃ t, exec .encode idle = .next t ∧ ¬Instr.encode.WritesGrid :=
  ⟨⟨_, rfl, by simp [Instr.WritesValid], by simp [Instr.WritesHeader], by decide, by decide⟩,
    ⟨_, rfl, by simp [Instr.WritesGrid]⟩⟩

/-- An access after which DONE, CLIP, WARN_TRAIL and WARN_HDRSIZE are still 1: a write to X0. -/
theorem witness_HostAccessesWriteOnlyTheirRows :
    let s := { abcd with status := { abcd.status with
      clip := true, warnTrail := true, warnHdrSize := true } }
    let t := (s.access (.write 0x40000010 .four 5)).1
    t.status.done = true ∧ t.status.clip = true ∧ t.status.warnTrail = true ∧
      t.status.warnHdrSize = true := by decide +kernel

theorem witness_ErrorsAreAllOrNothing :
    (issued .getPixel (argsAt 2 0) abcd).status.busy = true ∧
    ∃ t, engineStep (issued .getPixel (argsAt 2 0) abcd) = .next t ∧ t.status.err ≠ .none :=
  ⟨by decide, _, rfl, by decide +kernel⟩

/-- An error; a clipped point; a decoded stream with a warning. -/
theorem witness_ResultFlagsOnlyOnSuccess :
    (∃ t, exec .encode idle = .next t ∧ t.status.err ≠ .none) ∧
    (∃ t, exec .setPixel (issued .setPixel (argsAt 2 0) abcd) = .next t ∧ t.status.clip = true) ∧
    ∃ t, exec .decode (issued .decode Args.zero (loaded 71 stream)) = .next t ∧
      t.status.warnTrail = true :=
  ⟨⟨_, rfl, by decide +kernel⟩, ⟨_, rfl, by decide +kernel⟩, ⟨_, rfl, by decide +kernel⟩⟩

theorem witness_ImageCommandsRaiseNoImage :
    Instr.encode.NeedsImage ∧ idle.status.valid = false := ⟨by simp [Instr.NeedsImage], by decide⟩

/-- The state at the engine step of a DECODE. -/
def decoding (n : Nat) (bytes : List Byte) (p : Params := {}) : State :=
  issued .decode Args.zero (loaded n bytes p)

/-- One stream for each of the six clauses, at the boundary: 53 bytes; byte 1; depth 23; compression
1; width MAX_W + 1; one byte too few. -/
theorem witness_DecodeReportsTheFirstError :
    (decoding 53 stream).latch.inLen.toNat < 54 ∧
    (54 ≤ (decoding 54 (headerBytes 0x4E 40 2 24 0)).latch.inLen.toNat ∧
      (decoding 54 (headerBytes 0x4E 40 2 24 0)).inByte 1 ≠ 0x4D) ∧
    (54 ≤ (decoding 54 (headerBytes 0x4D 40 2 23 0)).latch.inLen.toNat ∧
      (decoding 54 (headerBytes 0x4D 40 2 23 0)).inByte 0 = 0x42 ∧
      (decoding 54 (headerBytes 0x4D 40 2 23 0)).inByte 1 = 0x4D ∧
      (decoding 54 (headerBytes 0x4D 40 2 23 0)).u16At 28 = 23) ∧
    ((decoding 54 (headerBytes 0x4D 40 2 24 1)).u16At 28 = 24 ∧
      (decoding 54 (headerBytes 0x4D 40 2 24 1)).u32At 30 = 1) ∧
    ((decoding 54 (headerBytes 0x4D 40 5 32 0) small).u16At 28 = 32 ∧
      (decoding 54 (headerBytes 0x4D 40 5 32 0) small).u32At 30 = 0 ∧
      small.maxW < (decoding 54 (headerBytes 0x4D 40 5 32 0) small).u32At 18) ∧
    ((decoding 69 stream).u32At 18 = 2 ∧ (decoding 69 stream).u32At 22 = 2 ∧
      (decoding 69 stream).latch.inLen.toNat < 54 + rowBytes 2 24 * 2) := by decide +kernel

/-- CODEC-3 as it is, one byte too few for WARN_TRAIL. -/
theorem witness_DecodeStoresTheStream :
    let s := decoding 70 stream
    54 ≤ s.latch.inLen.toNat ∧ s.inByte 0 = 0x42 ∧ s.inByte 1 = 0x4D ∧ s.u16At 28 = 24 ∧
      s.u32At 30 = 0 ∧ s.u32At 18 ≤ s.cfg.maxW ∧ s.u32At 22 ≤ s.cfg.maxH ∧
      s.u32At 18 * s.u32At 22 ≤ s.cfg.maxPixels ∧
      54 + rowBytes (s.u32At 18) (s.u16At 28) * s.u32At 22 = s.latch.inLen.toNat := by
  decide +kernel

/-- Both clauses, with a padded row of an image at 24 bpp. -/
theorem witness_EncodeWritesTheStream : idle.status.valid = false ∧
    (image 3 2 24 white).cfg.wf = true ∧ HasImage (image 3 2 24 white) ∧
    Grid.get? (image 3 2 24 white).pb 2 1 = some white ∧
    (1 < (image 3 2 24 white).height ∧ 3 * 3 ≤ 11 ∧ 11 < rowBytes 3 24) :=
  ⟨by decide, by decide, ⟨by decide, by decide +kernel⟩, by decide +kernel, by decide +kernel⟩

/-- An image at each depth; a state with the copied stream is the encoder's with IN_BUF := OUT_BUF. -/
theorem witness_DecodeUndoesEncode : abcd.cfg.wf = true ∧ HasImage abcd ∧
    HasImage (image 3 2 24 white) ∧
    (∃ t, exec .encode abcd = .next t ∧
      ∃ u : State, u.cfg = abcd.cfg ∧ u.latch.inLen = t.outLen ∧
        ∀ i < t.outLen.toNat, u.inByte i = t.outByte i) := by
  refine ⟨by decide, abcd_image, ⟨by decide, by decide +kernel⟩, _, rfl,
    { abcd with
      inBuf := (abcd.putOutput abcd.encodedCells (trunc32 abcd.encodedLen)).outBuf
      latch := { abcd.latch with inLen := trunc32 abcd.encodedLen } }, rfl, rfl, ?_⟩
  have h : ∀ i < 70, (Memory.find (Memory.writeAll abcd.outBuf abcd.encodedCells) i).isSome := by
    decide +kernel
  intro i hi
  have hl : (trunc32 abcd.encodedLen).toNat = 70 := by decide +kernel
  obtain ⟨b, hb⟩ := Option.isSome_iff_exists.1 (h i (hl ▸ hi))
  change (Memory.find (Memory.writeAll abcd.outBuf abcd.encodedCells) i).getD _
    = (Memory.find (Memory.writeAll abcd.outBuf abcd.encodedCells) i).getD _
  rw [hb]; rfl

/-- A command's state at its engine step with MAX_W = 4. -/
def building (w h bpp : Word) : State :=
  issued .construct (argsConstruct w h bpp) (State.resetWith small 0)

/-- Depths 23 and 33, width MAX_W + 1, and width MAX_W. -/
theorem witness_ConstructBuildsTheFilledImage : small.wf = true ∧
    (building 4 1 23).latch.args.bppArg.toNat = 23 ∧
    (building 4 1 33).latch.args.bppArg.toNat = 33 ∧
    ((building 5 1 24).latch.args.bppArg.toNat = 24 ∧
      small.maxW < (building 5 1 24).latch.args.w.toNat) ∧
    ((building 4 1 32).latch.args.bppArg.toNat = 32 ∧
      (building 4 1 32).latch.args.w.toNat = small.maxW ∧
      (building 4 1 32).latch.args.h.toNat ≤ small.maxH) := by decide +kernel

/-- The same, with an extent of 0 and an extent of 1. -/
theorem witness_ConstructCSetsTheCentrePixel :
    (building 4 1 23).latch.args.bppArg.toNat = 23 ∧
    small.maxW < (building 5 0 24).latch.args.w.toNat ∧
    ((building 4 0 24).latch.args.w.toNat ≤ small.maxW ∧
      (building 4 0 24).latch.args.h.toNat = 0) ∧
    ((building 4 1 24).latch.args.w.toNat ≤ small.maxW ∧
      0 < (building 4 1 24).latch.args.h.toNat) := by decide +kernel

theorem issued_image (i : Instr) (a : Args) : HasImage (issued i a abcd) :=
  ⟨rfl, abcd_image.consistent⟩

/-- The coordinates 2 (one past the end) and -1 are outside, 1 is inside. -/
theorem witness_inside : ¬abcd.Inside 2 1 ∧ ¬abcd.Inside 0 (-1) ∧ abcd.Inside 1 1 := by
  refine ⟨fun h => ?_, fun h => ?_, by decide, by decide, by decide, by decide⟩
  · exact absurd h.2.1 (by decide)
  · exact absurd h.2.2.1 (by decide)

theorem witness_GetPixelReadsThePixel : idle.status.valid = false ∧
    (HasImage (issued .getPixel (argsAt 2 1) abcd) ∧
      ¬(issued .getPixel (argsAt 2 1) abcd).Inside
        (issued .getPixel (argsAt 2 1) abcd).latch.args.x0.toInt 1) ∧
    HasImage (issued .getPixel (argsAt 1 1) abcd) ∧
    (issued .getPixel (argsAt 1 1) abcd).Inside
      (issued .getPixel (argsAt 1 1) abcd).latch.args.x0.toInt 1 :=
  ⟨by decide, ⟨issued_image _ _, witness_inside.1⟩, issued_image _ _, witness_inside.2.2⟩

/-- The three clauses' states are those of GET_PIXEL's; here a THICK of 2, the least that paints a
neighbourhood. -/
theorem witness_SetPixelPaintsTheNeighbourhood : idle.status.valid = false ∧
    (HasImage (issued .setPixel (argsAt 2 1) abcd) ∧
      ¬(issued .setPixel (argsAt 2 1) abcd).Inside
        (issued .setPixel (argsAt 2 1) abcd).latch.args.x0.toInt 1) ∧
    (HasImage (issued .setPixel { argsAt 1 1 with thick := 2 } abcd) ∧
      (issued .setPixel { argsAt 1 1 with thick := 2 } abcd).Inside 1 1 ∧
      (issued .setPixel { argsAt 1 1 with thick := 2 } abcd).latch.args.thick.toNat = 2) :=
  ⟨by decide, ⟨issued_image _ _, witness_inside.1⟩, issued_image _ _, witness_inside.2.2, by decide⟩

/-- RectOK (`rectOk`, the statement's condition) fails by one column and at x0 = -1; it holds with
x0 + w = width and with an empty rectangle at the far corner. -/
theorem witness_RectOutlineDrawsTheEdges : idle.status.valid = false ∧
    (HasImage (issued .rectOutline (argsRect 1 0 2 2) abcd) ∧
      (issued .rectOutline (argsRect 1 0 2 2) abcd).rectOk = false ∧
      (issued .rectOutline (argsRect 0xFFFFFFFF 0 1 1) abcd).rectOk = false) ∧
    (HasImage (issued .rectOutline (argsRect 0 0 2 2) abcd) ∧
      (issued .rectOutline (argsRect 0 0 2 2) abcd).rectOk = true ∧
      (issued .rectOutline (argsRect 2 2 0 0) abcd).rectOk = true) :=
  ⟨by decide, ⟨issued_image _ _, by decide +kernel, by decide +kernel⟩, issued_image _ _,
    by decide +kernel, by decide +kernel⟩

/-- As for RECT_OUTLINE. -/
theorem witness_RectFillFillsTheRectangle : idle.status.valid = false ∧
    (HasImage (issued .rectFill (argsRect 1 0 2 2) abcd) ∧
      (issued .rectFill (argsRect 1 0 2 2) abcd).rectOk = false ∧
      (issued .rectFill (argsRect 0xFFFFFFFF 0 1 1) abcd).rectOk = false) ∧
    (HasImage (issued .rectFill (argsRect 0 0 2 2) abcd) ∧
      (issued .rectFill (argsRect 0 0 2 2) abcd).rectOk = true ∧
      (issued .rectFill (argsRect 2 2 0 0) abcd).rectOk = true) :=
  ⟨by decide, ⟨issued_image _ _, by decide +kernel, by decide +kernel⟩, issued_image _ _,
    by decide +kernel, by decide +kernel⟩

/-- No image, and an image. -/
theorem witness_DrawLinePaintsLinePoints : (issued .drawLine Args.zero idle).status.valid = false ∧
    HasImage (issued .drawLine Args.zero abcd) := ⟨rfl, issued_image _ _⟩

theorem witness_DrawCirclePaintsCirclePoints :
    (issued .drawCircle Args.zero idle).status.valid = false ∧
    HasImage (issued .drawCircle Args.zero abcd) := ⟨rfl, issued_image _ _⟩

theorem witness_DrawTrianglePaintsThreeLines :
    (issued .drawTriangle Args.zero idle).status.valid = false ∧
    HasImage (issued .drawTriangle Args.zero abcd) := ⟨rfl, issued_image _ _⟩

/-- A horizontal line and a vertical one, each a single point (LINE-3). -/
theorem witness_LinePointsHaveTheFourProperties : (3 : Int) = 3 ∧
    ((2, 3) : Int × Int) ∈ linePoints 2 3 2 3 := by decide +kernel

/-- The first and the last point of a line that is not steep, one whose slope is just 1, and a steep
one. -/
theorem witness_LinePointsFollowTheErrorTerm :
    ((0 : Int) < 5 ∧ |(2 : Int) - 0| ≤ 5 - 0 ∧ ((5 : Nat) : Int) ≤ 5 - 0) ∧
    (|(3 : Int) - 0| ≤ 3 - 0 ∧ ((0 : Nat) : Int) ≤ 3 - 0) ∧
    (|(2 : Int) - 0| < 5 - 0 ∧ ((5 : Nat) : Int) ≤ 5 - 0) := by decide

theorem witness_CirclePointsAreSymmetric : ((10 : Int) + 5, (10 : Int) + 2) ∈ circlePoints 10 10 5 := by
  decide +kernel

/-- On the diagonal and on the axis. -/
theorem witness_CirclePointsFollowTheMidpointRule : (1 : Int) ≤ 1 ∧ (0 : Int) ≤ 1 ∧
    ((10 : Int) + 1, (10 : Int) + 1) ∈ circlePoints 10 10 1 ∧
    ((10 : Int) + 1, (10 : Int) + 0) ∈ circlePoints 10 10 1 := by decide +kernel

theorem witness_CircleLoopEndsByItself : (5 : Int) + 1 ≤ (6 : Nat) ∧ (-1 : Int) < 0 ∧
    ((3, 4) : Int × Int) ∈ circlePoints 3 4 0 := by decide +kernel

/-- FACTOR 0; a width of MAX_W + 1 (3 times 2 with MAX_W = 4 gives 6); and 2 times 2 = MAX_W. -/
theorem witness_UpscaleReplicatesPixels : small.wf = true ∧ idle.status.valid = false ∧
    HasImage (image 2 2 24 0 small) ∧
    (issued .upscale Args.zero (image 2 2 24 0 small)).latch.args.factor.toNat = 0 ∧
    small.maxW < (image 2 2 24 0 small).width * 3 ∧
    ((image 2 2 24 0 small).width * 2 = small.maxW ∧
      (image 2 2 24 0 small).height * 2 ≤ small.maxH ∧ 4 * 4 ≤ small.maxPixels) :=
  ⟨by decide, by decide, ⟨by decide, by decide +kernel⟩, by decide, by decide +kernel,
    by decide +kernel⟩

theorem witness_RegisterReadsReturnTheirFields : idle.cfg.wf = true ∧ abcd.cfg.wf = true := by
  decide +kernel

/-- With BUSY = 0 and with BUSY = 1. -/
theorem witness_CmdWriteIsAcceptedOrDropped : idle.cfg.wf = true ∧ idle.status.busy = false ∧
    (issued .encode Args.zero idle).cfg.wf = true ∧
    (issued .encode Args.zero idle).status.busy = true := by decide +kernel

theorem witness_StatusWriteClearsDoneAndCmdLost : abcd.cfg.wf = true ∧ abcd.status.done = true := by
  decide +kernel

/-- Bit 0 set among others, and bit 0 clear with every other bit set. -/
theorem witness_CtrlWriteStoresIrqEn : abcd.cfg.wf = true ∧ (3 : Word).getLsbD 0 = true ∧
    (0xFFFFFFFE : Word).getLsbD 0 = false := by decide +kernel

/-- A value at IN_CAP and one above it. -/
theorem witness_InLenIsClampedToCapacity : idle.cfg.wf = true ∧
    (0x00800000 : Word).toNat = idle.cfg.inCap ∧ idle.cfg.inCap < (0x00800001 : Word).toNat := by
  decide +kernel

/-- X0 and COLOR1 are the first and the last argument register. -/
theorem witness_ArgumentRegistersAreStorage : abcd.cfg.wf = true ∧
    Reg.x0.offset = 0x10 ∧ Reg.color1.offset = 0x44 ∧
    ∃ u, engineStep (issued .encode Args.zero abcd) = .next u :=
  ⟨by decide, by decide, by decide, _, rfl⟩

theorem witness_ReadsAndErrorsChangeNothing :
    ∃ r, (idle.access (.write 0x60000000 .four 0)).2 = some r ∧ r.kind = .slverr :=
  ⟨_, rfl, by decide +kernel⟩

/-- A size of 2, an offset of 2, the unmapped offset 0xFFC, and the read-only ID and OUT_LEN. -/
theorem witness_RegisterWindowTakesAlignedWords : idle.cfg.wf = true ∧ 0xFFF < 0x1000 ∧
    Size.two ≠ .four ∧ 2 % 4 ≠ 0 ∧ (∀ r ∈ Reg.all, r.offset ≠ 0xFFC) ∧ (∀ r : Reg, r ∈ Reg.all) ∧
    Reg.id.offset < 0x10 ∧ 0x44 < Reg.outLen.offset := by
  refine ⟨by decide, by decide, by decide, by decide, by decide, fun r => ?_, by decide, by decide⟩
  cases r <;> decide

/-- BUSY = 1; a misaligned offset; the last byte of each window, taken two bytes wide. -/
theorem witness_BufferWindowsRefuseBadAccesses : idle.cfg.wf = true ∧
    (issued .encode Args.zero idle).status.busy = true ∧
    (1 < idle.cfg.inCap ∧ 1 % Size.two.bytes ≠ 0) ∧
    (8388607 < idle.cfg.inCap ∧ idle.cfg.inCap < 8388607 + Size.two.bytes) ∧
    (8388607 < idle.cfg.outCap ∧ idle.cfg.outCap < 8388607 + Size.four.bytes) := by decide +kernel

/-- The last aligned word of the window, and its byte k = 3. -/
theorem witness_InputWindowStoresLittleEndian : idle.cfg.wf = true ∧ idle.status.busy = false ∧
    8388604 % Size.four.bytes = 0 ∧ 8388604 + Size.four.bytes ≤ idle.cfg.inCap ∧
    3 < Size.four.bytes := by decide +kernel

theorem witness_OutputWindowReadsLittleEndian : idle.cfg.wf = true ∧ idle.status.busy = false ∧
    8388604 % Size.four.bytes = 0 ∧ 8388604 + Size.four.bytes ≤ idle.cfg.outCap ∧
    3 < Size.four.bytes := by decide +kernel

/-- One byte past the register window. -/
theorem witness_OutsideTheWindowsNoResponse :
    idle.cfg.regBase + 0x1000 ≤ (0x40001000 : Word).toNat ∧
    (0x40001000 : Word).toNat < idle.cfg.inBase ∧ (0x40001000 : Word).toNat < idle.cfg.outBase := by
  decide +kernel

theorem witness_IrqFollowsDoneAndEnable : idle.cfg.wf = true ∧ ∃ t, exec .encode idle = .next t :=
  ⟨by decide, _, rfl⟩

theorem witness_ResetGivesTheResetValues :
    (hostDoes .reset abcd).nextAgent = .host ∧ (hostDoes .reset abcd).script = [.reset] ∧
    Reg.hdrWidth ≠ .id ∧ ¬(0x60 ≤ Reg.hdrWidth.offset ∧ Reg.hdrWidth.offset ≤ 0x70) := by
  decide +kernel

theorem witness_RowLengthsAreMultiplesOfFour : (24 = 24 ∨ 24 = 32) ∧ (32 = 24 ∨ 32 = 32) := by decide

end Sys2Proof.Tests
end

/-! ### Every step keeps the invariant (10_state.md R32, R37, R40, R41; 60_exceptions.md R116) -/

namespace Sys2Proof.Machine

open Sys2Proof

/-- R116: an error completes with no flag. -/
theorem Status.flagsInv_raised (t : Status) (e : ResultCode) :
    (t.completed e {}).flagsInv = true := by
  simp [Status.flagsInv]

/-- R116: a success completes with CLIP alone or without it. -/
theorem Status.flagsInv_completed (t : Status) {f : ResultFlags}
    (hf : f.clip = false ∨ f.warnTrail = false ∧ f.warnHdrSize = false) :
    (t.completed .none f).flagsInv = true := by
  rcases hf with hc | ⟨ht, hs⟩
  · simp [Status.flagsInv, hc]
  · simp [Status.flagsInv, ht, hs]

/-- R20: an accepted command starts with no flag and no error. -/
theorem Status.flagsInv_accepted (t : Status) : t.accepted.flagsInv = true := by
  simp [Status.flagsInv]

theorem State.imageInv_of_facts {s : State} (hv : s.status.valid = true) (hi : ImageFacts s) :
    s.imageInv = true := by
  rw [State.imageInv, if_pos hv]
  exact State.imageOk_iff.2 hi

theorem trunc32_toNat_le (n : Nat) : (trunc32 n).toNat ≤ n := by
  rw [trunc32, BitVec.toNat_ofNat]
  exact Nat.mod_le _ _

/-- R37: what a write to IN_LEN stores is at most IN_CAP. -/
theorem clampInLen_le (p : Params) (v : Word) : (clampInLen p v).toNat ≤ p.inCap :=
  (trunc32_toNat_le _).trans (Nat.min_le_right _ _)

/-! #### The parts of a command -/

theorem Inv.finish {s : State} (h : Inv s) {e : ResultCode} {f : ResultFlags}
    (hf : (s.status.completed e f).flagsInv = true) : Inv (s.finish e f) :=
  { h with flags := hf, latchLen := fun hb => nomatch hb }

theorem Inv.raise {s : State} (h : Inv s) (e : ResultCode) : Inv (s.raise e) :=
  h.finish (Status.flagsInv_raised _ e)

theorem Inv.putImage {s : State} (h : Inv s) {hd : Header} {g : Grid}
    (ok : (s.putImage hd g).imageOk = true) : Inv (s.putImage hd g) :=
  { h with image := State.imageInv_of_facts rfl (State.imageOk_iff.1 ok) }

theorem Inv.putGrid {s : State} (h : Inv s) (hv : s.status.valid = true) (hi : ImageFacts s)
    {g : Grid} (hg : Grid.hasShape g s.width s.height = true) : Inv (s.putGrid g) :=
  { h with image := State.imageInv_of_facts hv { hi with shape := hg } }

theorem Inv.putScaled {s : State} (h : Inv s) (hv : s.status.valid = true) {hd : Header} {g : Grid}
    (ok : (s.putScaled hd g).imageOk = true) : Inv (s.putScaled hd g) :=
  { h with image := State.imageInv_of_facts hv (State.imageOk_iff.1 ok) }

theorem Inv.putResult {s : State} (h : Inv s) (c : Color) : Inv (s.putResult c) := { h with }

theorem Inv.putOutput {s : State} (h : Inv s) {cells : List Host.Cell} {n : Word}
    (hn : n.toNat ≤ s.cfg.outCap) (hc : ∀ c ∈ cells, c.1 < s.cfg.outCap) :
    Inv (s.putOutput cells n) :=
  { h with
    outLen := hn
    outBuf := ⟨Memory.wf_writeAll h.outBuf.1 _, Memory.below_writeAll h.outBuf.2 hc⟩ }

/-- R7, R87: ENCODE writes only bytes below its length, and that is at most OUT_CAP. -/
theorem Inv.putEncoded {s : State} (h : Inv s) (hi : ImageFacts s) :
    Inv (s.putOutput s.encodedCells (trunc32 s.encodedLen)) :=
  have hle := State.encodedLen_le h.cfg hi
  h.putOutput ((trunc32_toNat_le _).trans hle)
    fun _ hc => (State.encodedCells_lt hi hc).trans_le hle

/-- Every command keeps the invariant. -/
theorem CommandEffect.inv {s t : State} (h : CommandEffect s t) (hs : Inv s) : Inv t := by
  cases h with
  | raised e _ => exact hs.raise e
  | image _ _ f hf ok => exact (hs.putImage ok).finish (Status.flagsInv_completed _ (.inl hf))
  | output _ hi => exact (hs.putEncoded hi).finish (Status.flagsInv_completed _ (.inl rfl))
  | result _ c => exact (hs.putResult c).finish (Status.flagsInv_completed _ (.inl rfl))
  | drawn hv hi g hg clip =>
    exact (hs.putGrid hv hi hg).finish (Status.flagsInv_completed _ (.inr ⟨rfl, rfl⟩))
  | scaled hv _ _ _ ok =>
    exact (hs.putScaled hv (ok hs.cfg)).finish (Status.flagsInv_completed _ (.inl rfl))

/-! #### The host's side -/

/-- The invariant says nothing of the host's side of the bus. -/
theorem Inv.hostSide {s : State} (h : Inv s) (sc : List HostOp) (ts : List Agent)
    (l : List (Access × Option Response)) :
    Inv { s with script := sc, turns := ts, busLog := l } := { h with }

theorem Inv.takeTurn {s : State} (h : Inv s) : Inv s.takeTurn := h.hostSide _ _ _

/-- Every host access keeps the invariant. -/
theorem AccessEffect.inv {s t : State} (h : AccessEffect s t) (hs : Inv s) : Inv t := by
  cases h with
  | same => exact hs
  | accepted v _ =>
    exact { hs with flags := Status.flagsInv_accepted _, latchLen := fun _ => hs.inLen }
  | dropped _ => exact { hs with }
  | cleared v => exact { hs with }
  | ctrl b => exact { hs with }
  | inLen v => exact { hs with inLen := clampInLen_le _ v }
  | args a => exact { hs with }
  | input _ cells hc =>
    exact { hs with
      inBuf := ⟨Memory.wf_writeAll hs.inBuf.1 _, Memory.below_writeAll hs.inBuf.2 hc⟩ }

/-- R124: the reset leaves no image, no flag and empty buffers. -/
theorem Inv.resetEvent {s : State} (h : Inv s) : Inv s.resetEvent :=
  { cfg := h.cfg, image := rfl, flags := rfl, inLen := Nat.zero_le _,
    latchLen := fun _ => Nat.zero_le _, outLen := Nat.zero_le _, inBuf := ⟨rfl, rfl⟩,
    outBuf := ⟨rfl, rfl⟩ }

/-- Settles O13: the engine's turn has a command's effect, the host's turn an access's or the
reset's, and each of them keeps the invariant. -/
theorem everyStepKeepsTheInvariant : Obligations.EveryStepKeepsTheInvariant := by
  unfold Obligations.EveryStepKeepsTheInvariant
  intro s t hs h
  rcases s.nextAgent_cases with hn | hn
  · rcases step_host h hn with ⟨-, rfl⟩ | ⟨a, _, l, sc, -, rfl⟩ | ⟨-, sc, rfl⟩
    · exact hs.takeTurn
    · exact ((access_effect s.takeTurn a).inv hs.takeTurn).hostSide sc _ l
    · exact hs.takeTurn.resetEvent.hostSide sc _ _
  · rcases step_engine h hn with ⟨-, rfl⟩ | ⟨-, he, -⟩
    · exact hs.takeTurn
    · exact he.inv hs.takeTurn

end Sys2Proof.Machine

/-! ### What a command may write (10_state.md R39, the engine's column) -/

namespace Sys2Proof

theorem Instr.WritesValid.writesHeader {i : Instr} (h : i.WritesValid) : i.WritesHeader := by
  rcases h with h | h | h <;> simp [Instr.WritesHeader, h]

theorem Instr.WritesValid.writesGrid {i : Instr} (h : i.WritesValid) : i.WritesGrid := by
  rcases h with h | h | h <;> simp [Instr.WritesGrid, h]

end Sys2Proof

namespace Sys2Proof.Machine

open Sys2Proof

/-- The states that the command `i` can leave the machine in, told apart by the rows of R39 that it
writes. `CommandEffect` says more of each state, and nothing of the command. -/
inductive RowEffect (i : Instr) (s : State) : State → Prop where
  /-- an error: no row but STATUS (R113) -/
  | raised (e : ResultCode) : RowEffect i s (s.raise e)
  /-- HDR_*, PB and VALID (R80, R89, R91) -/
  | image (hi : i.WritesValid) (h : Header) (g : Grid) (f : ResultFlags) :
      RowEffect i s ((s.putImage h g).finish .none f)
  /-- HDR_* and PB (R108) -/
  | scaled (hi : i = .upscale) (h : Header) (g : Grid) :
      RowEffect i s ((s.putScaled h g).finish .none {})
  /-- PB (R95, R98, R99, R101, R105, R107) -/
  | drawn (hi : i.WritesGrid) (g : Grid) (f : ResultFlags) :
      RowEffect i s ((s.putGrid g).finish .none f)
  /-- RESULT (R92) -/
  | result (hi : i = .getPixel) (c : Color) : RowEffect i s ((s.putResult c).finish .none {})
  /-- OUT_BUF and OUT_LEN (R85) -/
  | output (hi : i = .encode) (cells : List Host.Cell) (n : Word) :
      RowEffect i s ((s.putOutput cells n).finish .none {})

/-- A command that needs the image raises NO_IMAGE or does what its body does. -/
theorem RowEffect.of_needImage {i : Instr} {s t : State} {b : Host.Outcome State Fault Refusal}
    (h : s.needImage b = .next t) (hb : b = .next t → RowEffect i s t) : RowEffect i s t := by
  rcases State.needImage_next h with ⟨-, rfl⟩ | ⟨-, -, h⟩
  · exact .raised _
  · exact hb h

/-- R80: what DECODE writes once the header is read. -/
theorem RowEffect.of_decodeBody (s : State) (n : Nat) (h : Header) :
    RowEffect .decode s (s.decodeBody n h) := by
  unfold State.decodeBody
  split_ifs
  iterate 4 exact .raised _
  exact .image (.inl rfl) _ _ _

/-- What any command writes, by the command. -/
theorem exec_rowEffect {i : Instr} {s t : State} (h : exec i s = .next t) : RowEffect i s t := by
  cases i <;> simp only [exec] at h
  case decode =>
    unfold execDecode at h
    split_ifs at h <;> cases h
    · exact .raised _
    · exact .raised _
    · exact .of_decodeBody ..
  case construct =>
    unfold execConstruct at h
    split_ifs at h <;> cases h
    · exact .raised _
    · exact .raised _
    · exact .image (.inr (.inl rfl)) _ _ _
  case constructC =>
    unfold execConstructC at h
    split_ifs at h <;> cases h
    · exact .raised _
    · exact .raised _
    · exact .raised _
    · exact .image (.inr (.inr rfl)) _ _ _
  all_goals
    refine .of_needImage h fun hb => ?_
    clear h
  case encode => cases hb; exact .output rfl _ _
  case getPixel =>
    split_ifs at hb
    · split at hb <;> cases hb
      exact .result rfl _
    · cases hb; exact .raised _
  case upscale =>
    split_ifs at hb <;> cases hb
    · exact .raised _
    · exact .raised _
    · exact .scaled rfl _ _
  case setPixel =>
    split_ifs at hb <;> cases hb
    · exact .drawn ⟨by decide, by decide⟩ _ _
    · exact .drawn ⟨by decide, by decide⟩ s.pb _
  case rectOutline | rectFill =>
    split_ifs at hb <;> cases hb
    · exact .drawn ⟨by decide, by decide⟩ _ _
    · exact .raised _
  case drawLine | drawCircle | drawTriangle => cases hb; exact .drawn ⟨by decide, by decide⟩ _ _

section

variable {i : Instr} {s t : State} (h : RowEffect i s t)
include h

/-- The rows that no command writes. -/
theorem RowEffect.kept : KeptByCommands s t := by
  cases h <;> constructor <;> simp

theorem RowEffect.valid (hi : ¬i.WritesValid) : t.status.valid = s.status.valid := by
  cases h with
  | image hw => exact absurd hw hi
  | _ => rfl

theorem RowEffect.hdr (hi : ¬i.WritesHeader) : t.hdr = s.hdr := by
  cases h with
  | image hw => exact absurd hw.writesHeader hi
  | scaled hw => exact absurd (.inr (.inr (.inr hw))) hi
  | _ => rfl

theorem RowEffect.pb (hi : ¬i.WritesGrid) : t.pb = s.pb := by
  cases h with
  | image hw => exact absurd hw.writesGrid hi
  | scaled hw => exact absurd ⟨by simp [hw], by simp [hw]⟩ hi
  | drawn hw => exact absurd hw hi
  | _ => rfl

theorem RowEffect.result_eq (hi : i ≠ .getPixel) : t.result = s.result := by
  cases h with
  | result hw => exact absurd hw hi
  | _ => rfl

theorem RowEffect.output_eq (hi : i ≠ .encode) :
    t.outLen = s.outLen ∧ ∀ k, t.outByte k = s.outByte k := by
  cases h with
  | output hw => exact absurd hw hi
  | _ => exact ⟨rfl, fun _ => rfl⟩

end

/-- Settles O20, from the rows that each command's effect writes. -/
theorem commandsWriteOnlyTheirRows : Obligations.CommandsWriteOnlyTheirRows := by
  unfold Obligations.CommandsWriteOnlyTheirRows
  intro i s t h
  have he := exec_rowEffect h
  exact ⟨he.kept, he.valid, he.hdr, he.pb, he.result_eq, he.output_eq⟩

end Sys2Proof.Machine

/-! ### What a host access may write (10_state.md R39, the host's column) -/

namespace Sys2Proof.Machine

open Sys2Proof

/-- No host access writes the image. -/
theorem AccessEffect.sameImage {s t : State} (h : AccessEffect s t) : SameImage s t := by
  cases h <;> exact ⟨rfl, rfl, rfl⟩

/-- No host access writes RESULT, OUT_LEN or OUT_BUF. -/
theorem AccessEffect.sameResults {s t : State} (h : AccessEffect s t) : SameResults s t := by
  cases h <;> exact ⟨rfl, rfl, fun _ => rfl⟩

/-- No host access writes the parameters, and the buffers stay those drawn at the last reset. -/
theorem AccessEffect.config {s t : State} (h : AccessEffect s t) :
    t.cfg = s.cfg ∧ t.draws = s.draws := by
  cases h <;> exact ⟨rfl, rfl⟩

/-- Of DONE, the result flags and ERR, a host access clears some or none. -/
theorem AccessEffect.flags {s t : State} (h : AccessEffect s t) :
    (t.status.done = true → s.status.done = true) ∧
    (t.status.clip = true → s.status.clip = true) ∧
    (t.status.warnTrail = true → s.status.warnTrail = true) ∧
    (t.status.warnHdrSize = true → s.status.warnHdrSize = true) ∧
    (t.status.err = s.status.err ∨ t.status.err = .none) := by
  cases h with
  | accepted v _ => exact ⟨id, nofun, nofun, nofun, .inr rfl⟩
  | cleared v => exact ⟨fun hd => (Bool.and_eq_true_iff.1 hd).1, id, id, id, .inl rfl⟩
  | _ => exact ⟨id, id, id, id, .inl rfl⟩

/-- Settles O21, from what any one access can do. -/
theorem hostAccessesWriteOnlyTheirRows : Obligations.HostAccessesWriteOnlyTheirRows := by
  unfold Obligations.HostAccessesWriteOnlyTheirRows
  intro s a
  have h := access_effect s a
  exact ⟨h.sameImage, h.sameResults, h.config.1, h.config.2, h.flags⟩

end Sys2Proof.Machine

/-! ### The STATUS bits over one step (10_state.md R22, R23, R24, R27) -/

namespace Sys2Proof.Machine

open Sys2Proof

/-- R112: every completion clears BUSY and sets DONE, and leaves CMD_LOST. -/
theorem CommandEffect.status {s t : State} (h : CommandEffect s t) :
    t.status.busy = false ∧ t.status.done = true ∧ t.status.cmdLost = s.status.cmdLost := by
  cases h <;> exact ⟨rfl, rfl, rfl⟩

/-- R24: only a new image, which completes without error, changes VALID. -/
theorem CommandEffect.valid_changed {s t : State} (h : CommandEffect s t)
    (hv : t.status.valid ≠ s.status.valid) : t.status.valid = true ∧ t.status.err = .none := by
  cases h with
  | image => exact ⟨rfl, rfl⟩
  | _ => exact absurd rfl hv

/-- What one step, of either agent, can do to STATUS. -/
inductive StatusStep (s t : State) : Prop where
  /-- an idle turn, or an access that is no write to CMD or STATUS -/
  | same (hs : t.status = s.status)
  /-- an engine step (R55) -/
  | completed (hn : s.nextAgent = .engine) (he : CommandEffect s.takeTurn t)
  /-- a CMD write while BUSY = 0 (R20) -/
  | accepted (v : Word) (hw : s.HostWrites .cmd v) (hs : t.status = s.status.accepted)
  /-- a CMD write while BUSY = 1 (R20) -/
  | dropped (v : Word) (hw : s.HostWrites .cmd v) (hb : s.status.busy = true)
      (hs : t.status = s.status.dropped)
  /-- a write to STATUS (R21) -/
  | cleared (v : Word) (hw : s.HostWrites .status v) (hs : t.status = s.status.writeOneToClear v)
  /-- the reset (R124) -/
  | reset (hr : s.HostResets) (hs : t.status = Status.zero)

theorem step_status {s t : State} (h : step s = .next t) : StatusStep s t := by
  rcases s.nextAgent_cases with hn | hn
  · rcases step_host_status h hn with hs | ⟨v, hw, ⟨-, hs⟩ | ⟨hb, hs⟩⟩ | ⟨v, hw, hs⟩ | ⟨hr, hs⟩
    · exact .same hs
    · exact .accepted v hw hs
    · exact .dropped v hw hb hs
    · exact .cleared v hw hs
    · exact .reset hr hs
  · rcases step_engine h hn with ⟨-, rfl⟩ | ⟨-, he, -⟩
    · exact .same rfl
    · exact .completed hn he

/-- R24: an engine step that changes VALID runs a command that R39 lets write VALID. -/
theorem step_engine_writesValid {s t : State} (h : step s = .next t) (hn : s.nextAgent = .engine)
    (hv : t.status.valid ≠ s.status.valid) : ∃ i, s.EngineRuns i ∧ i.WritesValid := by
  rcases step_engine h hn with ⟨-, rfl⟩ | ⟨-, -, ⟨i, hr, hx⟩ | rfl⟩
  · exact absurd rfl hv
  · exact ⟨i, hr, by_contra fun hi => hv ((exec_rowEffect hx).valid hi)⟩
  · exact absurd rfl hv

/-- Settles O16: the engine changes VALID only by a new image, the host only by the reset. -/
theorem validChangesOnlyByConstructionOrReset :
    Obligations.ValidChangesOnlyByConstructionOrReset := by
  unfold Obligations.ValidChangesOnlyByConstructionOrReset
  intro s t h hv
  cases step_status h with
  | completed hn he =>
    obtain ⟨hval, herr⟩ := he.valid_changed hv
    exact .inl ⟨hval, herr, step_engine_writesValid h hn hv⟩
  | reset hr hs => exact .inr ⟨by rw [hs]; rfl, hr⟩
  | same hs | accepted _ _ hs | dropped _ _ _ hs | cleared _ _ hs =>
    exact absurd (show t.status.valid = s.status.valid by simp [hs]) hv

/-- R22: a step that sets BUSY is a write to CMD. -/
theorem step_sets_busy {s t : State} (h : step s = .next t) (h0 : s.status.busy = false)
    (h1 : t.status.busy = true) : ∃ v, s.HostWrites .cmd v := by
  cases step_status h with
  | accepted v hw _ | dropped v hw _ _ => exact ⟨v, hw⟩
  | completed _ he => simp [he.status.1] at h1
  | same hs | cleared _ _ hs => simp [hs, h0] at h1
  | reset _ hs => simp [hs, Status.zero] at h1

/-- R22: a step that clears BUSY is the engine's or the reset. -/
theorem step_clears_busy {s t : State} (h : step s = .next t) (h1 : s.status.busy = true)
    (h0 : t.status.busy = false) : s.nextAgent = .engine ∨ s.HostResets := by
  cases step_status h with
  | completed hn _ => exact .inl hn
  | reset hr _ => exact .inr hr
  | same hs | accepted _ _ hs | dropped _ _ _ hs | cleared _ _ hs => simp [hs, h1] at h0

/-- R50, R51: while BUSY = 1 both buffer windows refuse every access. -/
theorem access_buffer_busy {s : State} (hb : s.status.busy = true) {a : Access} {addr : Word}
    {w : Window} {off : Nat} (ha : (∃ n, a = .read addr n) ∨ ∃ n v, a = .write addr n v)
    (hw : windowAt s.cfg addr.toNat = some (w, off)) (hne : w ≠ .registers) :
    s.access a = (s, some .slverr) := by
  cases w with
  | registers => exact absurd rfl hne
  | input =>
    rcases ha with ⟨n, rfl⟩ | ⟨n, v, rfl⟩
    · simp [State.access, hw, State.readInput, hb]
    · simp [State.access, hw, State.writeInput, hb]
  | output =>
    rcases ha with ⟨n, rfl⟩ | ⟨n, v, rfl⟩
    · simp [State.access, hw, State.readOutput, hb]
    · simp [State.access, hw]

/-- Settles O17: who sets BUSY, who clears it, and the buffer windows between. -/
theorem busySetOnlyByAcceptedCommand : Obligations.BusySetOnlyByAcceptedCommand := by
  unfold Obligations.BusySetOnlyByAcceptedCommand
  intro s
  exact ⟨fun _ => step_sets_busy, fun _ => step_clears_busy,
    fun hb _ _ _ _ => access_buffer_busy hb⟩

/-- R23: an engine step that runs a command ends with DONE = 1. -/
theorem step_completes_done {s t : State} (h : step s = .next t) (hn : s.nextAgent = .engine)
    (hb : s.status.busy = true) : t.status.done = true := by
  rcases step_engine h hn with ⟨hb', -⟩ | ⟨-, he, -⟩
  · simp [hb] at hb'
  · exact he.status.2.1

/-- R23: a step that clears DONE is the reset or a write of 1 to bit 1 of STATUS. -/
theorem step_clears_done {s t : State} (h : step s = .next t) (h1 : s.status.done = true)
    (h0 : t.status.done = false) :
    s.HostResets ∨ ∃ v, s.HostWrites .status v ∧ v.getLsbD 1 = true := by
  cases step_status h with
  | reset hr _ => exact .inl hr
  | cleared v hw hs => exact .inr ⟨v, hw, by simpa [hs, h1] using h0⟩
  | completed _ he => simp [he.status.2.1] at h0
  | same hs | accepted _ _ hs | dropped _ _ _ hs => simp [hs, h1] at h0

/-- Settles O18: completion sets DONE, and only W1C and the reset clear it. -/
theorem doneIsStickyUntilCleared : Obligations.DoneIsStickyUntilCleared := by
  unfold Obligations.DoneIsStickyUntilCleared
  intro s t h
  exact ⟨step_completes_done h, step_clears_done h⟩

/-- When the host's next operation is a register write, the step leaves STATUS as that write does. -/
theorem step_of_hostWrites {s t : State} {r : Reg} {v : Word} (hp : s.cfg.wf = true)
    (hw : s.HostWrites r v) (h : step s = .next t) :
    t.status = (s.takeTurn.writeReg r v).status := by
  obtain ⟨hn, ad, rest, hs, had⟩ := hw
  have ha : s.takeTurn.access (.write ad .four v) = (s.takeTurn.writeReg r v, some (.okay 0)) :=
    access_write_at hp had
  simp only [step, hn, State.hostTurn, State.takeTurn_script, hs, State.busCycle, ha] at h
  cases h
  rfl

/-- R20, R27: a CMD write while BUSY = 1 sets CMD_LOST. -/
theorem step_drops_cmd {s t : State} {v : Word} (hp : s.cfg.wf = true) (h : step s = .next t)
    (hw : s.HostWrites .cmd v) (hb : s.status.busy = true) : t.status.cmdLost = true := by
  rw [step_of_hostWrites hp hw h]
  simp [State.writeReg, State.writeCmd, hb]

/-- R27: a step that sets CMD_LOST is a CMD write while BUSY = 1. -/
theorem step_sets_cmdLost {s t : State} (h : step s = .next t) (h0 : s.status.cmdLost = false)
    (h1 : t.status.cmdLost = true) : s.status.busy = true ∧ ∃ v, s.HostWrites .cmd v := by
  cases step_status h with
  | dropped v hw hb _ => exact ⟨hb, v, hw⟩
  | completed _ he => simp [he.status.2.2, h0] at h1
  | same hs | accepted _ _ hs | cleared _ _ hs => simp [hs, h0] at h1
  | reset _ hs => simp [hs, Status.zero] at h1

/-- R27: a step that clears CMD_LOST is the reset or a write of 1 to bit 6 of STATUS. -/
theorem step_clears_cmdLost {s t : State} (h : step s = .next t) (h1 : s.status.cmdLost = true)
    (h0 : t.status.cmdLost = false) :
    s.HostResets ∨ ∃ v, s.HostWrites .status v ∧ v.getLsbD 6 = true := by
  cases step_status h with
  | reset hr _ => exact .inl hr
  | cleared v hw hs => exact .inr ⟨v, hw, by simpa [hs, h1] using h0⟩
  | completed _ he => simp [he.status.2.2, h1] at h0
  | same hs | accepted _ _ hs | dropped _ _ _ hs => simp [hs, h1] at h0

/-- Settles O19: a dropped CMD write sets CMD_LOST and nothing else does, and only W1C and the reset
clear it. -/
theorem cmdLostIsStickyUntilCleared : Obligations.CmdLostIsStickyUntilCleared := by
  unfold Obligations.CmdLostIsStickyUntilCleared
  intro s t hp h
  exact ⟨fun _ => step_drops_cmd hp h, step_sets_cmdLost h, step_clears_cmdLost h⟩

end Sys2Proof.Machine

/-! ### Commands read the latch only (10_state.md R18, R19; 20_memory.md R58) -/

namespace Sys2Proof.Machine

open Sys2Proof

/-- The outcome with `f` applied to its next state. -/
def mapNext (f : State → State) (o : Host.Outcome State Fault Refusal) :
    Host.Outcome State Fault Refusal :=
  match o with
  | .next s => .next (f s)
  | .fault r => .fault r
  | .refused r => .refused r

@[simp] theorem mapNext_next (f : State → State) (s : State) :
    mapNext f (.next s) = .next (f s) := rfl

@[simp] theorem mapNext_ite (f : State → State) (c : Prop) [Decidable c]
    (a b : Host.Outcome State Fault Refusal) :
    mapNext f (if c then a else b) = if c then mapNext f a else mapNext f b :=
  apply_ite ..

/-- The state with other values in the fields that the host may write while a command runs and that
the command must not see: the argument registers, IN_LEN and IRQ_EN. -/
def State.withHostFields (a : Args) (l : Word) (q : Bool) (s : State) : State :=
  { s with args := a, inLen := l, irqEn := q }

section

variable (a : Args) (l : Word) (q : Bool) (s : State)

theorem needImage_withHostFields (b : Host.Outcome State Fault Refusal) :
    (s.withHostFields a l q).needImage (mapNext (State.withHostFields a l q) b)
      = mapNext (State.withHostFields a l q) (s.needImage b) := by
  simp only [State.needImage, mapNext_ite]
  rfl

theorem decodeBody_withHostFields (n : Nat) (h : Header) :
    (s.withHostFields a l q).decodeBody n h = (s.decodeBody n h).withHostFields a l q := by
  simp only [State.decodeBody, apply_ite (State.withHostFields a l q)]
  rfl

theorem execDecode_withHostFields :
    execDecode (s.withHostFields a l q) = mapNext (State.withHostFields a l q) (execDecode s) := by
  simp only [execDecode, mapNext_ite, mapNext_next, ← decodeBody_withHostFields]
  rfl

theorem putOutput_withHostFields (cells : List Host.Cell) (n : Word) :
    (s.withHostFields a l q).putOutput cells n
      = (s.putOutput cells n).withHostFields a l q := rfl

theorem execEncode_withHostFields :
    execEncode (s.withHostFields a l q) = mapNext (State.withHostFields a l q) (execEncode s) := by
  have hc : (s.withHostFields a l q).encodedCells = s.encodedCells := rfl
  have hn : (s.withHostFields a l q).encodedLen = s.encodedLen := rfl
  simp only [execEncode, ← needImage_withHostFields, hc, hn, putOutput_withHostFields]
  rfl

theorem execGetPixel_withHostFields :
    execGetPixel (s.withHostFields a l q)
      = mapNext (State.withHostFields a l q) (execGetPixel s) := by
  have hg : Grid.get? (s.withHostFields a l q).pb (s.withHostFields a l q).opX0.toNat
      (s.withHostFields a l q).opY0.toNat = Grid.get? s.pb s.opX0.toNat s.opY0.toNat := rfl
  simp only [execGetPixel, ← needImage_withHostFields, mapNext_ite, hg]
  cases Grid.get? s.pb s.opX0.toNat s.opY0.toNat <;> rfl

/-- A command does not see the host's fields, and leaves them as they are. -/
theorem exec_withHostFields (i : Instr) :
    exec i (s.withHostFields a l q) = mapNext (State.withHostFields a l q) (exec i s) := by
  cases i <;> simp only [exec]
  case decode => exact execDecode_withHostFields ..
  case encode => exact execEncode_withHostFields ..
  case construct => simp only [execConstruct, mapNext_ite]; rfl
  case constructC => simp only [execConstructC, mapNext_ite]; rfl
  case getPixel => exact execGetPixel_withHostFields ..
  all_goals
    simp only [execSetPixel, execDrawLine, execDrawCircle, execRectOutline, execRectFill,
      execDrawTriangle, execUpscale, ← needImage_withHostFields, mapNext_ite]
    rfl

end

/-- Settles O25, command by command: every test and every value that a command computes is one of the
latch, the image and the buffers. -/
theorem commandsReadOnlyTheLatch : Obligations.CommandsReadOnlyTheLatch := by
  unfold Obligations.CommandsReadOnlyTheLatch
  intro i s a l q
  change exec i (s.withHostFields a l q) = _
  rw [exec_withHostFields]
  cases exec i s <;> rfl

end Sys2Proof.Machine

/-! ### The registers as the host sees them (10_state.md R17 to R38) -/

namespace Sys2Proof.Machine

open Sys2Proof

/-- Settles O45, register by register: each stands at the spec's offset, and reads its field. -/
theorem registerReadsReturnTheirFields : Obligations.RegisterReadsReturnTheirFields := by
  unfold Obligations.RegisterReadsReturnTheirFields
  intro s hp
  have f := Params.facts hp
  have rd (r : Reg) {off : Nat} (h : r.offset = off) :
      s.access (.read (trunc32 (s.cfg.regBase + off)) .four) = (s, some (.okay (s.readReg r))) :=
    access_read_off hp h
  have cap {n : Nat} (h : n < 2 ^ 32) : (trunc32 n).toNat = n := trunc32_toNat h
  refine ⟨rd .cmd rfl, ⟨_, rd .status rfl, s.status.word_bits⟩, by decide,
    ⟨_, rd .ctrl rfl, ctrlWord_toNat _⟩, rd .id rfl,
    rd .x0 rfl, rd .y0 rfl, rd .x1 rfl, rd .y1 rfl, rd .x2 rfl, rd .y2 rfl, rd .w rfl, rd .h rfl,
    rd .radius rfl, rd .thick rfl, rd .factor rfl, rd .bppArg rfl, rd .color0 rfl, rd .color1 rfl,
    rd .inLen rfl, rd .outLen rfl, rd .result rfl,
    ⟨_, rd .capMaxW rfl, cap f.maxW⟩, ⟨_, rd .capMaxH rfl, cap f.maxH⟩,
    ⟨_, rd .capMaxPixels rfl, cap (by have := f.encoded; omega)⟩,
    ⟨_, rd .capIn rfl, cap (by have := f.inCap; omega)⟩,
    ⟨_, rd .capOut rfl, cap (by have := f.outCap; omega)⟩,
    rd .hdrSignature rfl, rd .hdrFileSize rfl, rd .hdrReserved rfl, rd .hdrDataOffset rfl,
    rd .hdrInfoSize rfl, rd .hdrWidth rfl, rd .hdrHeight rfl, rd .hdrPlanes rfl, rd .hdrBpp rfl,
    rd .hdrCompression rfl, rd .hdrPixelDataSize rfl, rd .hdrTrail0 rfl, rd .hdrTrail1 rfl,
    rd .hdrTrail2 rfl, rd .hdrTrail3 rfl⟩

/-- Settles O47: the write to CMD is `writeCmd`, in its two branches. -/
theorem cmdWriteIsAcceptedOrDropped : Obligations.CmdWriteIsAcceptedOrDropped := by
  unfold Obligations.CmdWriteIsAcceptedOrDropped
  intro s v hp
  rw [access_write_reg hp]
  refine ⟨fun hb => ?_, fun hb => ?_⟩
  · rw [State.writeReg, State.writeCmd, if_neg (by simp [hb])]; rfl
  · rw [State.writeReg, State.writeCmd, if_pos hb]; rfl

/-- R21: clearing by a written 1, as a choice on the bit. -/
theorem and_not_eq_ite (x b : Bool) : (x && !b) = if b then false else x := by
  cases b <;> simp

/-- Settles O48: the write to STATUS is `writeOneToClear`. -/
theorem statusWriteClearsDoneAndCmdLost : Obligations.StatusWriteClearsDoneAndCmdLost := by
  unfold Obligations.StatusWriteClearsDoneAndCmdLost
  intro s v hp
  rw [access_write_reg hp, ← and_not_eq_ite, ← and_not_eq_ite]
  rfl

/-- R37: what a write to IN_LEN stores. -/
theorem clampInLen_toNat (p : Params) (v : Word) :
    (clampInLen p v).toNat = min v.toNat p.inCap :=
  trunc32_toNat (Nat.lt_of_le_of_lt (Nat.min_le_left _ _) v.isLt)

/-- Settles O49: the value stored is `clampInLen`, and that is min(v, IN_CAP). -/
theorem inLenIsClampedToCapacity : Obligations.InLenIsClampedToCapacity := by
  unfold Obligations.InLenIsClampedToCapacity
  intro s v hp
  exact ⟨_, _, access_write_reg hp .inLen v, access_read_reg (s := s.writeReg .inLen v) hp .inLen,
    clampInLen_toNat _ v, rfl⟩

/-- Settles O60: the bit stored is bit 0 of v, and the word read is that bit alone. -/
theorem ctrlWriteStoresIrqEn : Obligations.CtrlWriteStoresIrqEn := by
  unfold Obligations.CtrlWriteStoresIrqEn
  intro s v hp
  refine ⟨access_write_off hp (r := .ctrl) rfl v, _,
    access_read_off (s := s.writeReg .ctrl v) hp (r := .ctrl) rfl, ?_⟩
  calc (ctrlWord (v.getLsbD 0)).toNat = (v.toNat.testBit 0).toNat := ctrlWord_toNat _
    _ = v.toNat % 2 := by rw [Nat.toNat_testBit, Nat.pow_zero, Nat.div_one]

/-! #### The argument registers (R17, R18) -/

/-- R18: a write stores the value in the register it names, and leaves the other thirteen. -/
theorem Args.write_eq (a : Args) (r : Reg) (v : Word) :
    a.write r v =
      { x0 := if r = .x0 then v else a.x0
        y0 := if r = .y0 then v else a.y0
        x1 := if r = .x1 then v else a.x1
        y1 := if r = .y1 then v else a.y1
        x2 := if r = .x2 then v else a.x2
        y2 := if r = .y2 then v else a.y2
        w := if r = .w then v else a.w
        h := if r = .h then v else a.h
        radius := if r = .radius then v else a.radius
        thick := if r = .thick then v else a.thick
        factor := if r = .factor then v else a.factor
        bppArg := if r = .bppArg then v else a.bppArg
        color0 := if r = .color0 then v else a.color0
        color1 := if r = .color1 then v else a.color1 } := by
  cases r <;> rfl

section

variable (s : State) {r : Reg} (v : Word) (h1 : 0x10 ≤ r.offset) (h2 : r.offset ≤ 0x44)
include h1 h2

/-- R17: the argument registers are those at offsets 0x010 to 0x044. -/
theorem writeReg_argument : s.writeReg r v = { s with args := s.args.write r v } := by
  cases r <;> simp [Reg.offset] at h1 h2 <;> rfl

theorem readReg_writeReg_argument_same : (s.writeReg r v).readReg r = v := by
  cases r <;> simp [Reg.offset] at h1 h2 <;> rfl

theorem readReg_writeReg_argument_other {q : Reg} (hq : q ≠ r) :
    (s.writeReg r v).readReg q = s.readReg q := by
  have hr : r ≠ q := hq.symm
  rw [writeReg_argument s v h1 h2, Args.write_eq]
  cases q <;> simp [State.readReg, hr]

end

/-! #### The engine step by the latched word (R55, R62) -/

theorem engineStep_idle {s : State} (hb : s.status.busy = false) : engineStep s = .next s := by
  simp [engineStep, hb]

theorem engineStep_ok {s : State} {i : Instr} (hb : s.status.busy = true)
    (hd : decode s.latch.cmd = .ok i) : engineStep s = exec i s := by
  simp [engineStep, hb, State.latchedWord, hd]

theorem engineStep_error {s : State} {e : DecodeError} (hb : s.status.busy = true)
    (hd : decode s.latch.cmd = .error e) : engineStep s = .next (s.raise .illegalCmd) := by
  simp [engineStep, hb, State.latchedWord, hd, execIllegal]

/-- R18: the argument registers change nothing of what the engine step does. -/
theorem engineStep_withArgs {s u : State} (a : Args) (h : engineStep s = .next u) :
    engineStep { s with args := a } = .next { u with args := a } := by
  by_cases hb : s.status.busy = true
  · cases hd : decode s.latch.cmd with
    | ok i =>
      rw [engineStep_ok hb hd] at h
      have hk := (exec_rowEffect h).kept
      have hu : { u with args := a } = u.withHostFields a s.inLen s.irqEn := by
        rw [State.withHostFields, ← hk.inLen, ← hk.irqEn]
      calc engineStep { s with args := a }
        _ = exec i (s.withHostFields a s.inLen s.irqEn) :=
          engineStep_ok (s := { s with args := a }) hb hd
        _ = mapNext (State.withHostFields a s.inLen s.irqEn) (exec i s) := exec_withHostFields ..
        _ = .next { u with args := a } := by rw [h, hu, mapNext_next]
    | error e =>
      rw [engineStep_error hb hd] at h
      cases h
      exact engineStep_error (s := { s with args := a }) hb hd
  · rw [Bool.not_eq_true] at hb
    rw [engineStep_idle hb] at h
    cases h
    exact engineStep_idle (s := { s with args := a }) hb

/-- Settles O46: the register stores the value, no other one reads differently, and the engine step
reads the latch. -/
theorem argumentRegistersAreStorage : Obligations.ArgumentRegistersAreStorage := by
  unfold Obligations.ArgumentRegistersAreStorage
  intro s r v hp h1 h2
  have hw := writeReg_argument s v h1 h2
  refine ⟨s.writeReg r v, access_write_reg hp r v, ?_,
    fun q => readReg_writeReg_argument_other s v h1 h2, by rw [hw], fun u hu => ?_⟩
  · have hc : (s.writeReg r v).cfg = s.cfg := by rw [hw]
    rw [← hc, access_read_reg (hc ▸ hp), readReg_writeReg_argument_same s v h1 h2]
  · rw [hw]
    exact engineStep_withArgs _ hu

/-! #### Accesses that are no register access (R38, R48) -/

/-- R48: the register window takes only aligned accesses of four bytes. -/
theorem regAccessOk_iff {p : Params} (hp : p.wf = true) {off : Nat} (h : off < 0x1000) (n : Size) :
    regAccessOk (trunc32 (p.regBase + off)).toNat n = true ↔ n = .four ∧ off % 4 = 0 := by
  have f := Params.facts hp
  have ha := f.regAligned
  have hi := f.regInside
  have hm : (p.regBase + off) % 4 = off % 4 := by omega
  rw [regAccessOk, trunc32_toNat (by omega), hm]
  cases n <;> simp [Size.bytes]

section

variable {s : State} {off : Nat} (hp : s.cfg.wf = true) (h : off < 0x1000)
include hp h

/-- R44: an access in the register window is a register-window access. -/
theorem access_read_registers (n : Size) :
    s.access (.read (trunc32 (s.cfg.regBase + off)) n)
      = (s, some (s.readRegisters (trunc32 (s.cfg.regBase + off)).toNat off n)) := by
  simp only [State.access, windowAt_register hp h]

theorem access_write_registers (n : Size) (v : Word) :
    s.access (.write (trunc32 (s.cfg.regBase + off)) n v)
      = ((s.writeRegisters (trunc32 (s.cfg.regBase + off)).toNat off n v).1,
          some (s.writeRegisters (trunc32 (s.cfg.regBase + off)).toNat off n v).2) := by
  simp only [State.access, windowAt_register hp h]

theorem access_registers_refused {n : Size} (hn : n ≠ .four ∨ off % 4 ≠ 0) (v : Word) :
    s.access (.read (trunc32 (s.cfg.regBase + off)) n) = (s, some .slverr) ∧
    s.access (.write (trunc32 (s.cfg.regBase + off)) n v) = (s, some .slverr) := by
  have hbad : ¬regAccessOk (trunc32 (s.cfg.regBase + off)).toNat n = true := by
    rw [regAccessOk_iff hp h]; tauto
  rw [access_read_registers hp h, access_write_registers hp h, State.readRegisters,
    State.writeRegisters, if_neg hbad, if_neg hbad]
  exact ⟨rfl, rfl⟩

theorem access_registers_unmapped (ha : off % 4 = 0) (hr : ∀ r : Reg, r.offset ≠ off) (v : Word) :
    s.access (.read (trunc32 (s.cfg.regBase + off)) .four) = (s, some (.okay 0)) ∧
    s.access (.write (trunc32 (s.cfg.regBase + off)) .four v) = (s, some (.okay 0)) := by
  have hok := (regAccessOk_iff hp h .four).2 ⟨rfl, ha⟩
  rw [access_read_registers hp h, access_write_registers hp h, State.readRegisters,
    State.writeRegisters, if_pos hok, if_pos hok, regAt_none hr]
  exact ⟨rfl, rfl⟩

end

/-- R38: a write to a read-only register is ignored. -/
theorem writeReg_readOnly (s : State) {r : Reg} (v : Word) (h1 : r ≠ .cmd) (h2 : r ≠ .status)
    (h3 : r ≠ .ctrl) (h4 : r ≠ .inLen) (h5 : ¬(0x10 ≤ r.offset ∧ r.offset ≤ 0x44)) :
    s.writeReg r v = s := by
  cases r <;> simp [Reg.offset] at h1 h2 h3 h4 h5 <;> rfl

/-- Settles O51: the refused accesses, the unmapped offsets and the read-only registers. -/
theorem registerWindowTakesAlignedWords : Obligations.RegisterWindowTakesAlignedWords := by
  unfold Obligations.RegisterWindowTakesAlignedWords
  intro s off hp h
  refine ⟨fun n v hn => access_registers_refused hp h hn v,
    fun v ha hr => access_registers_unmapped hp h ha hr v, fun r v ho h1 h2 h3 h4 h5 => ?_⟩
  rw [access_write_off hp ho.symm, writeReg_readOnly s v h1 h2 h3 h4 h5]

end Sys2Proof.Machine

/-! ### The word that is placed runs next (log 10; 20_memory.md R55) -/

namespace Sys2Proof

/-- R61, R63: a command's own word decodes to it. -/
theorem decode_encode (i : Instr) : decode (encode i) = .ok i := by
  rw [decode, splitWord_encode, decodeFields, if_pos rfl, lookupOpcode_opcode]

theorem tableWord_toNat (v : Word) : tableWord 32 v.toNat = v := by
  rw [tableWord, Nat.mod_eq_of_lt v.isLt, BitVec.ofNat_toNat, BitVec.setWidth_eq]

end Sys2Proof

namespace Sys2Proof.Machine

open Sys2Proof

/-- Settles O8: the engine's turn comes first, and spending it gives back the host's `turns`. -/
theorem fetchedWordRunsNext : Obligations.FetchedWordRunsNext := by
  unfold Obligations.FetchedWordRunsNext
  intro s i
  rw [State.withFetchWord, tableWord_toNat]
  exact engineStep_ok (s := s.acceptCmd (encode i)) rfl (decode_encode i)

end Sys2Proof.Machine

/-! ### Whose turn it is (20_memory.md R55, R56) -/

namespace Sys2Proof.Machine

open Sys2Proof

theorem step_eq_engineStep {s : State} (hn : s.nextAgent = .engine) :
    step s = engineStep s.takeTurn := by
  rw [step, hn]

theorem step_eq_hostTurn {s : State} (hn : s.nextAgent = .host) :
    step s = .next s.takeTurn.hostTurn := by
  rw [step, hn]

theorem hostTurn_access {s : State} {a : Access} {rest : List HostOp}
    (hs : s.script = .access a :: rest) : s.hostTurn = { s.busCycle a with script := rest } := by
  rw [State.hostTurn, hs]

/-- Settles O7: with BUSY = 1 and a word that decodes, the engine step is `exec`. -/
theorem stepRunsTheDecodedCommand : Obligations.StepRunsTheDecodedCommand := by
  unfold Obligations.StepRunsTheDecodedCommand
  rintro s i ⟨hn, hb, hd⟩
  rw [step_eq_engineStep hn]
  exact engineStep_ok (s := s.takeTurn) hb hd

/-- Settles O9: the host's turn is one bus cycle of its next access. -/
theorem hostTurnIsOneAccess : Obligations.HostTurnIsOneAccess := by
  unfold Obligations.HostTurnIsOneAccess
  intro s a rest hn hs
  rw [step_eq_hostTurn hn, hostTurn_access (s := s.takeTurn) hs]
  rfl

/-- Settles O10: with BUSY = 0 the engine step is none. -/
theorem idleEngineChangesNothing : Obligations.IdleEngineChangesNothing := by
  unfold Obligations.IdleEngineChangesNothing
  intro s hn hb
  rw [step_eq_engineStep hn]
  exact engineStep_idle (s := s.takeTurn) hb

end Sys2Proof.Machine

/-! ### The answers of the three windows (20_memory.md R44, R48 to R54) -/

namespace Sys2Proof.Machine

open Sys2Proof

/-! #### What any access can answer (R47, R52, R54) -/

section

variable (s : State) (a off : Nat) (n : Size)

theorem readRegisters_answer :
    (∃ d, s.readRegisters a off n = .okay d) ∨ s.readRegisters a off n = .slverr := by
  unfold State.readRegisters
  split
  · split <;> exact .inl ⟨_, rfl⟩
  · exact .inr rfl

theorem readInput_answer :
    (∃ d, s.readInput a off n = .okay d) ∨ s.readInput a off n = .slverr := by
  unfold State.readInput
  split_ifs
  exacts [.inr rfl, .inl ⟨_, rfl⟩, .inr rfl]

theorem readOutput_answer :
    (∃ d, s.readOutput a off n = .okay d) ∨ s.readOutput a off n = .slverr := by
  unfold State.readOutput
  split_ifs
  exacts [.inr rfl, .inl ⟨_, rfl⟩, .inr rfl]

theorem writeRegisters_answer (v : Word) :
    (∃ t, s.writeRegisters a off n v = (t, .okay 0)) ∨
      s.writeRegisters a off n v = (s, .slverr) := by
  unfold State.writeRegisters
  split
  · split <;> exact .inl ⟨_, rfl⟩
  · exact .inr rfl

theorem writeInput_answer (v : Word) :
    (∃ t, s.writeInput a off n v = (t, .okay 0)) ∨ s.writeInput a off n v = (s, .slverr) := by
  unfold State.writeInput
  split_ifs
  exacts [.inr rfl, .inl ⟨_, rfl⟩, .inr rfl]

end

/-- R54: no read has a side effect. -/
theorem access_read_state (s : State) (a : Word) (n : Size) : (s.access (.read a n)).1 = s := by
  simp only [State.access]
  split <;> rfl

/-- R52, R44: an access is OKAY, or it leaves the state as it is, with SLVERR and zero data or with
no response. -/
theorem access_answer (s : State) (a : Access) :
    (∃ t d, s.access a = (t, some (.okay d))) ∨ s.access a = (s, some .slverr) ∨
      s.access a = (s, none) := by
  cases a with
  | read a n =>
    simp only [State.access]
    split
    case h_1 off _ => rcases readRegisters_answer s a.toNat off n with ⟨d, h⟩ | h <;> simp [h]
    case h_2 off _ => rcases readInput_answer s a.toNat off n with ⟨d, h⟩ | h <;> simp [h]
    case h_3 off _ => rcases readOutput_answer s a.toNat off n with ⟨d, h⟩ | h <;> simp [h]
    case h_4 => exact .inr (.inr rfl)
  | write a n v =>
    simp only [State.access]
    split
    case h_1 off _ => rcases writeRegisters_answer s a.toNat off n v with ⟨t, h⟩ | h <;> simp [h]
    case h_2 off _ => rcases writeInput_answer s a.toNat off n v with ⟨t, h⟩ | h <;> simp [h]
    case h_3 => exact .inr (.inl rfl)
    case h_4 => exact .inr (.inr rfl)

/-- Settles O50: of an access's three answers, only SLVERR's kind is `slverr`. -/
theorem readsAndErrorsChangeNothing : Obligations.ReadsAndErrorsChangeNothing := by
  unfold Obligations.ReadsAndErrorsChangeNothing
  intro s
  refine ⟨access_read_state s, fun a r hr hk => ?_⟩
  rcases access_answer s a with ⟨t, d, h⟩ | h | h
  · rw [h] at hr; cases hr; cases hk
  · rw [h] at hr ⊢; cases hr; exact ⟨rfl, rfl⟩
  · rw [h] at hr; cases hr

/-- R44: an address outside the three windows is in none of them. -/
theorem windowAt_outside {p : Params} {a : Nat}
    (hr : a < p.regBase ∨ p.regBase + Params.regWindow ≤ a)
    (hi : a < p.inBase ∨ p.inBase + p.inCap ≤ a)
    (ho : a < p.outBase ∨ p.outBase + p.outCap ≤ a) : windowAt p a = none := by
  rw [windowAt, if_neg, if_neg, if_neg] <;>
    simp only [Bool.and_eq_true, decide_eq_true_eq, not_and, not_lt] <;> omega

/-- Settles O55: an address in no window gets no response. -/
theorem outsideTheWindowsNoResponse : Obligations.OutsideTheWindowsNoResponse := by
  unfold Obligations.OutsideTheWindowsNoResponse
  intro s a n v hr hi ho
  have hw := windowAt_outside hr hi ho
  simp only [State.access, hw, and_self]

/-! #### The buffer windows' refusals (R49, R51, R53) -/

/-- R49: in a window with an aligned base, an access is good when its offset is aligned and its last
byte is inside. -/
theorem bufAccessOk_iff {base off cap : Nat} {n : Size} (hb : base % 4 = 0)
    (hc : base + cap ≤ 2 ^ 32) (ho : off < cap) :
    bufAccessOk (trunc32 (base + off)).toNat off cap n = true ↔
      off % n.bytes = 0 ∧ off + n.bytes ≤ cap := by
  have hm : (base + off) % n.bytes = off % n.bytes := by
    cases n <;> simp only [Size.bytes] <;> omega
  simp [bufAccessOk, trunc32_toNat (show base + off < 2 ^ 32 by omega), hm]

theorem bufAccessOk_bad {base off cap : Nat} {n : Size} (hb : base % 4 = 0)
    (hc : base + cap ≤ 2 ^ 32) (ho : off < cap) (h : off % n.bytes ≠ 0 ∨ cap < off + n.bytes) :
    ¬bufAccessOk (trunc32 (base + off)).toNat off cap n = true := by
  rw [bufAccessOk_iff hb hc ho]
  omega

section

variable {s : State} {off : Nat} {n : Size} (hp : s.cfg.wf = true)
include hp

theorem access_input_refused (ho : off < s.cfg.inCap)
    (h : s.status.busy = true ∨ off % n.bytes ≠ 0 ∨ s.cfg.inCap < off + n.bytes) (v : Word) :
    s.access (.read (trunc32 (s.cfg.inBase + off)) n) = (s, some .slverr) ∧
    s.access (.write (trunc32 (s.cfg.inBase + off)) n v) = (s, some .slverr) := by
  have f := Params.facts hp
  simp only [State.access, windowAt_input hp ho, State.readInput, State.writeInput]
  rcases h with hb | hbad
  · simp only [if_pos hb, and_self]
  · simp only [if_neg (bufAccessOk_bad f.inAligned f.inInside ho hbad), ite_self, and_self]

theorem access_read_output_refused (ho : off < s.cfg.outCap)
    (h : s.status.busy = true ∨ off % n.bytes ≠ 0 ∨ s.cfg.outCap < off + n.bytes) :
    s.access (.read (trunc32 (s.cfg.outBase + off)) n) = (s, some .slverr) := by
  have f := Params.facts hp
  simp only [State.access, windowAt_output hp ho, State.readOutput]
  rcases h with hb | hbad
  · rw [if_pos hb]
  · rw [if_neg (bufAccessOk_bad f.outAligned f.outInside ho hbad), ite_self]

theorem access_write_output (ho : off < s.cfg.outCap) (v : Word) :
    s.access (.write (trunc32 (s.cfg.outBase + off)) n v) = (s, some .slverr) := by
  simp only [State.access, windowAt_output hp ho]

end

/-- Settles O52: a busy block, a bad access and a write to the output window are refused. -/
theorem bufferWindowsRefuseBadAccesses : Obligations.BufferWindowsRefuseBadAccesses := by
  unfold Obligations.BufferWindowsRefuseBadAccesses
  intro s off n v hp
  exact ⟨fun ho h => access_input_refused hp ho h v, access_read_output_refused hp,
    fun ho => access_write_output hp ho v⟩

/-! #### Good accesses to the buffer windows (R45, R50, R51) -/

/-- The state after a good write to the input window (R50). -/
def State.storeInput (s : State) (off : Nat) (n : Size) (v : Word) : State :=
  { s with inBuf := Memory.writeAll s.inBuf (writeCells off n v) }

theorem access_write_input {s : State} {off : Nat} {n : Size} (hp : s.cfg.wf = true)
    (hb : s.status.busy = false) (ha : off % n.bytes = 0) (hi : off + n.bytes ≤ s.cfg.inCap)
    (v : Word) :
    s.access (.write (trunc32 (s.cfg.inBase + off)) n v)
      = (s.storeInput off n v, some (.okay 0)) := by
  have f := Params.facts hp
  have hn : 0 < n.bytes := by cases n <;> decide
  simp only [State.access, windowAt_input hp (show off < s.cfg.inCap by omega), State.writeInput,
    hb, bufAccessOk_at f.inAligned f.inInside ha hi, if_true, Bool.false_eq_true, if_false,
    State.storeInput]

section

variable (s : State) {off : Nat} {n : Size} (v : Word)

/-- R45: byte k of the data is stored at index off + k. -/
theorem storeInput_inByte_same {k : Nat} (hk : k < n.bytes) :
    (s.storeInput off n v).inByte (off + k) = BitVec.ofNat 8 (v.toNat / 2 ^ (8 * k)) := by
  have hf := Memory.find_writeAll_of_mem s.inBuf (writeCells off n v) (off + k) _
    (leCells_nodup ..) (mem_leCells.2 ⟨k, hk, rfl⟩)
  rw [State.inByte, State.storeInput, hf, Option.getD_some, zext32]

theorem storeInput_inByte_other {k : Nat} (hk : k < off ∨ off + n.bytes ≤ k) :
    (s.storeInput off n v).inByte k = s.inByte k := by
  have hf : Memory.find (Memory.writeAll s.inBuf (writeCells off n v)) k
      = Memory.find s.inBuf k := by
    apply Memory.find_writeAll_of_notMem
    intro c hc
    obtain ⟨i, hi, rfl⟩ := mem_leCells.1 hc
    simp only
    omega
  rw [State.inByte, State.storeInput, hf, State.inByte]

/-- R45, R50: the bytes stored read as the low 8n bits of the data. -/
theorem leWord_storeInput :
    (leWord (s.storeInput off n v).inByte off n).toNat = v.toNat % 2 ^ (8 * n.bytes) := by
  rw [(leWord_lt ..).1]
  exact leSum_of_bytes _ _ _ _ fun k hk => storeInput_inByte_same s v hk

end

/-- Settles O53: a good read is `leWord` of the bytes there, a good write is `storeInput`. -/
theorem inputWindowStoresLittleEndian : Obligations.InputWindowStoresLittleEndian := by
  unfold Obligations.InputWindowStoresLittleEndian
  intro s off n v hp hb ha hi
  refine ⟨⟨_, access_read_input hp hb ha hi, fun k => leWord_byte _ _ _, (leWord_lt ..).2⟩,
    s.storeInput off n v, access_write_input hp hb ha hi v, fun k hk => ?_,
    fun k => storeInput_inByte_other s v, rfl, _,
    access_read_input (s := s.storeInput off n v) hp hb ha hi, leWord_storeInput s v⟩
  rw [storeInput_inByte_same s v hk, BitVec.extractLsb', Nat.shiftRight_eq_div_pow]

/-- Settles O54: a good read is `leWord` of the bytes there. -/
theorem outputWindowReadsLittleEndian : Obligations.OutputWindowReadsLittleEndian := by
  unfold Obligations.OutputWindowReadsLittleEndian
  intro s off n hp hb ha hi
  exact ⟨_, access_read_output hp hb ha hi, fun k => leWord_byte _ _ _, (leWord_lt ..).2⟩

end Sys2Proof.Machine

/-! ### The decoder and the command words (30_encoding.md R61 to R65) -/

namespace Sys2Proof

theorem decodeFields_eq_ok_iff {c : CommandWord} {i : Instr} :
    decodeFields c = .ok i ↔ c.rsv = 0 ∧ c.opc = i.opcode := by
  rw [decodeFields]
  split_ifs with hr
  · cases hl : lookupOpcode c.opc opcodeTable with
    | some j =>
      have hj := lookupOpcode_some hl
      refine ⟨fun h => ?_, fun ⟨_, ho⟩ => ?_⟩
      · cases h; exact ⟨hr, hj⟩
      · rw [ho, lookupOpcode_opcode] at hl; cases hl; rfl
    | none =>
      refine ⟨nofun, fun ⟨_, ho⟩ => ?_⟩
      rw [ho, lookupOpcode_opcode] at hl; cases hl
  · exact ⟨nofun, fun h => absurd h.1 hr⟩

/-- R62: a word decodes to `i` exactly when its RSV is 0 and its OPC is `i`'s. -/
theorem decode_eq_ok_iff {v : Word} {i : Instr} :
    decode v = .ok i ↔ v.extractLsb' 8 24 = 0 ∧ v.extractLsb' 0 8 = i.opcode :=
  decodeFields_eq_ok_iff

/-- Settles O2: the two fields that decode to `i`, put together, are `encode i`. -/
theorem decodeReadsOnlyTheCommandsOwnWord : Obligations.DecodeReadsOnlyTheCommandsOwnWord := by
  unfold Obligations.DecodeReadsOnlyTheCommandsOwnWord
  refine fun v i => ⟨fun h => ?_, fun h => h ▸ decode_encode i⟩
  obtain ⟨hr, ho⟩ := decodeFields_eq_ok_iff.1 h
  rw [word_eq_fields v, hr, ho]
  rfl

/-- R63, R65: what R65's list of illegal OPC values leaves is R63's OPC column. -/
theorem opcAssigned_iff (c : CommandWord) :
    c.opcAssigned = true ↔ ∃ i : Instr, c.opc = i.opcode := by
  constructor
  · intro h
    have hn : c.opc.toNat = 0x01 ∨ c.opc.toNat = 0x02 ∨ c.opc.toNat = 0x03 ∨ c.opc.toNat = 0x04 ∨
        c.opc.toNat = 0x05 ∨ c.opc.toNat = 0x10 ∨ c.opc.toNat = 0x11 ∨ c.opc.toNat = 0x12 ∨
        c.opc.toNat = 0x13 ∨ c.opc.toNat = 0x14 ∨ c.opc.toNat = 0x15 ∨ c.opc.toNat = 0x20 := by
      simp only [CommandWord.opcAssigned, Bool.not_eq_true', Bool.or_eq_false_iff,
        Bool.and_eq_false_iff, beq_eq_false_iff_ne, decide_eq_false_iff_not] at h
      omega
    have row (i : Instr) (e : c.opc.toNat = i.opcode.toNat) : ∃ i : Instr, c.opc = i.opcode :=
      ⟨i, BitVec.eq_of_toNat_eq e⟩
    rcases hn with e | e | e | e | e | e | e | e | e | e | e | e
    exacts [row .decode e, row .encode e, row .construct e, row .constructC e, row .getPixel e,
      row .setPixel e, row .drawLine e, row .drawCircle e, row .rectOutline e, row .rectFill e,
      row .drawTriangle e, row .upscale e]
  · rintro ⟨i, hi⟩
    rw [CommandWord.opcAssigned, hi]
    cases i <;> decide

/-- R63, R65: the decoder and the checks of R65's list both ask that RSV is 0 and that OPC is some
command's. -/
theorem exists_decode_eq_ok_iff (v : Word) :
    (∃ i, decode v = .ok i) ↔ (splitWord v).wf = true := by
  calc (∃ i, decode v = .ok i)
    _ ↔ ∃ i : Instr, (splitWord v).rsv = 0 ∧ (splitWord v).opc = i.opcode :=
      exists_congr fun _ => decodeFields_eq_ok_iff
    _ ↔ (splitWord v).rsv = 0 ∧ ∃ i : Instr, (splitWord v).opc = i.opcode := exists_and_left
    _ ↔ (splitWord v).wf = true := by
      rw [CommandWord.wf, Bool.and_eq_true, opcAssigned_iff, CommandWord.rsvZero, beq_iff_eq]

/-- R65: an ill-formed word decodes to no command. -/
theorem decode_ne_ok_of_not_wf {v : Word} (h : (splitWord v).wf = false) (i : Instr) :
    decode v ≠ .ok i := fun hd => by
  have hw := (exists_decode_eq_ok_iff v).1 ⟨i, hd⟩
  simp [h] at hw

/-- Settles O3: `exists_decode_eq_ok_iff` at every word. -/
theorem decoderAcceptsExactlyTheWellFormedWords :
    Obligations.DecoderAcceptsExactlyTheWellFormedWords := by
  unfold Obligations.DecoderAcceptsExactlyTheWellFormedWords
  exact exists_decode_eq_ok_iff

/-- R45: the decoder on the four bytes of a command's own word, whatever bytes follow. -/
theorem decodeBytes_encodeBytes (i : Instr) (rest : List Byte) :
    decodeBytes (encodeBytes i ++ rest) = .ok (i, rest) := by
  simp only [encodeBytes, bytesOfWord, List.cons_append, List.nil_append, decodeBytes,
    wordOfBytes_bytes, decode_encode]

/-- Settles O1: the word and the bytes of a command. -/
theorem encodedCommandsDecode : Obligations.EncodedCommandsDecode := by
  unfold Obligations.EncodedCommandsDecode
  exact fun i rest => ⟨decode_encode i, decodeBytes_encodeBytes i rest⟩

theorem decodeTableWord_encode (i : Instr) : decodeTableWord 32 (encode i).toNat = some i := by
  have h := decodeBytes_encodeBytes i []
  rw [List.append_nil, encodeBytes] at h
  rw [decodeTableWord, tableWord_toNat, h]

/-- R61, R65: a word whose bits 31:8 are not 0. -/
theorem decode_reservedBits {v : Word} (h : v.extractLsb' 8 24 ≠ 0) :
    decode v = .error .reservedBits :=
  if_neg h

/-- R65: a word whose OPC is in no row of R63. -/
theorem decode_unassignedOpcode {v : Word} (hr : v.extractLsb' 8 24 = 0)
    (ho : lookupOpcode (v.extractLsb' 0 8) opcodeTable = none) :
    decode v = .error .unassignedOpcode := by
  rw [decode, decodeFields, splitWord, if_pos hr, ho]

/-- Settles O4: the five commands' own words, and the six illegal words by their fields. -/
theorem specWordsDecode : Obligations.SpecWordsDecode := by
  unfold Obligations.SpecWordsDecode
  exact ⟨decodeTableWord_encode .decode, decodeTableWord_encode .constructC,
    decodeTableWord_encode .setPixel, decodeTableWord_encode .drawTriangle,
    decodeTableWord_encode .upscale,
    decode_unassignedOpcode (by decide) (by decide), decode_reservedBits (by decide),
    decode_unassignedOpcode (by decide) (by decide),
    decode_unassignedOpcode (by decide) (by decide),
    decode_unassignedOpcode (by decide) (by decide), decode_reservedBits (by decide)⟩

end Sys2Proof

/-! ### Illegal words, WAIT and a script line (30_encoding.md R62, R65, R67 to R69) -/

namespace Sys2Proof.Machine

open Sys2Proof

/-- R65: a latched word that decodes to no command raises ILLEGAL_CMD. -/
theorem engineStep_illegal {s : State} (hb : s.status.busy = true)
    (hd : ∀ i, decode s.latch.cmd ≠ .ok i) : engineStep s = .next (s.raise .illegalCmd) := by
  cases h : decode s.latch.cmd with
  | ok i => exact absurd h (hd i)
  | error e => exact engineStep_error hb h

/-- Settles O5: the latched word decodes to `i` exactly when its fields are those of `i`. -/
theorem engineStepDecodesTheLatchedWord : Obligations.EngineStepDecodesTheLatchedWord := by
  unfold Obligations.EngineStepDecodesTheLatchedWord
  intro s hb
  exact ⟨fun hr => engineStep_illegal hb fun i hd => hr (decode_eq_ok_iff.1 hd).1,
    fun ho => engineStep_illegal hb fun i hd => ho i (decode_eq_ok_iff.1 hd).2,
    fun i hr ho => engineStep_ok hb (decode_eq_ok_iff.2 ⟨hr, ho⟩)⟩

/-- R112, R113: raising an error completes the command with its code and no flag. -/
theorem raise_completed (s : State) (e : ResultCode) : Completed (s.raise e) e {} := by
  constructor <;> rfl

/-- R113: raising an error leaves every row that commands keep. -/
theorem raise_kept (s : State) (e : ResultCode) : KeptByCommands s (s.raise e) := by
  constructor <;> simp

/-- Settles O6: the write is accepted, and as its word decodes to no command the engine step raises
ILLEGAL_CMD. -/
theorem illegalWordCompletesWithoutEffect : Obligations.IllegalWordCompletesWithoutEffect := by
  unfold Obligations.IllegalWordCompletesWithoutEffect
  intro s v hp hb hw
  exact ⟨s.acceptCmd v, (s.acceptCmd v).raise .illegalCmd,
    (cmdWriteIsAcceptedOrDropped s v hp).1 hb, rfl, rfl,
    engineStep_illegal (s := s.acceptCmd v) rfl (decode_ne_ok_of_not_wf hw), raise_completed _ _,
    ⟨rfl, rfl, rfl⟩, ⟨rfl, rfl, fun _ => rfl⟩, raise_kept _ _⟩

/-- R68: the read that WAIT repeats is OKAY with the STATUS word, and changes nothing. -/
theorem access_statusRead {s : State} (hp : s.cfg.wf = true) :
    s.access (statusRead s.cfg) = (s, some (.okay s.status.word)) :=
  access_read_reg hp .status

/-- R21, R68: the bit that WAIT tests is BUSY. -/
theorem pollBusy_eq {s : State} (hp : s.cfg.wf = true) : s.pollBusy = s.status.busy := by
  rw [State.pollBusy, access_statusRead hp]
  exact s.status.word_bits.1

theorem hostTurn_wait {s : State} {rest : List HostOp} (hp : s.cfg.wf = true)
    (hs : s.script = .wait :: rest) :
    s.hostTurn = { s with
      script := if s.status.busy then .wait :: rest else rest
      busLog := (statusRead s.cfg, some (.okay s.status.word)) :: s.busLog } := by
  rw [State.hostTurn, hs]
  simp only [State.busCycle, access_statusRead hp, pollBusy_eq hp]

/-- Settles O11: the host's turn is one round of WAIT. -/
theorem waitReadsStatusUntilIdle : Obligations.WaitReadsStatusUntilIdle := by
  unfold Obligations.WaitReadsStatusUntilIdle
  intro s rest hp hn hs
  rw [step_eq_hostTurn hn, hostTurn_wait (s := s.takeTurn) hp hs]
  rfl

/-- R68, R69: the accesses of a DRAW_LINE line, for any operands. -/
theorem scriptOps_drawLine (p : Params) (x0 y0 x1 y1 c : Int) :
    scriptOps p [.drawLine x0 y0 x1 y1 c] =
      [regWrite p .x0 x0, regWrite p .y0 y0, regWrite p .x1 x1, regWrite p .y1 y1,
       regWrite p .color0 c, regWrite p .cmd Instr.drawLine.opcode.toNat, .wait] := rfl

/-- R67: the words of the example line, its comment left out. -/
theorem wordsOf_example :
    wordsOf [] (stripComment "DRAW_LINE 0, 0, 5, 0, 0xFF00FF00 ; a green line".toList)
      = ["DRAW_LINE", "0", ",", "0", ",", "5", ",", "0", ",", "0xFF00FF00"].map String.toList := by
  decide +kernel

/-- R67, R68: the example line's words are a DRAW_LINE with its five operands. -/
theorem parseOp_example :
    parseOp "DRAW_LINE".toList
        (["0", ",", "0", ",", "5", ",", "0", ",", "0xFF00FF00"].map String.toList)
      = .ok (.drawLine 0 0 5 0 0xFF00FF00) := by
  decide +kernel

/-- R67: a line of text whose words are an operation and its operands is that one line of script. -/
theorem parseLine_of_words {l op : List Char} {ws : List (List Char)} {x : ScriptLine}
    (hw : wordsOf [] (stripComment l) = op :: ws) (hx : parseOp op ws = .ok x) :
    parseLine l = .ok (some x) := by
  simp only [parseLine, hw, hx]

/-- R67: a text of one line that parses. -/
theorem parseScript_one {t : String} {x : ScriptLine} (hl : linesOf [] t.toList = [t.toList])
    (hx : parseLine t.toList = .ok (some x)) : parseScript t = .ok [x] := by
  simp only [parseScript, hl, parseLines, hx]

/-- Settles O58: the text's one line is a DRAW_LINE, whose accesses are `scriptOps_drawLine`'s. -/
theorem scriptExampleIsTheSpecs : Obligations.ScriptExampleIsTheSpecs := by
  unfold Obligations.ScriptExampleIsTheSpecs
  exact fun p => ⟨_, parseScript_one (by decide +kernel)
    (parseLine_of_words wordsOf_example parseOp_example), scriptOps_drawLine p 0 0 5 0 0xFF00FF00⟩

end Sys2Proof.Machine

/-! ### Rows, DECODE, ENCODE and the round trip (40_codec.md) -/

namespace Sys2Proof.Machine

open Sys2Proof

/-! #### Row lengths (R73, R74) -/

theorem stride_mod_four {bpp : Nat} (h : bpp = 24 ∨ bpp = 32) (w : Nat) : stride w bpp % 4 = 0 := by
  rcases h with rfl | rfl
  · rw [stride_24]; omega
  · rw [stride_32]; omega

/-- Settles O59: the padding and the stride at each of the two depths. -/
theorem rowLengthsAreMultiplesOfFour : Obligations.RowLengthsAreMultiplesOfFour := by
  unfold Obligations.RowLengthsAreMultiplesOfFour
  intro w h bpp hb
  refine ⟨rowPad_24 w, rowPad_32 w, rfl, stride_mod_four hb w, rfl, ?_⟩
  rw [Nat.mul_assoc]
  exact pixBytes_le (depthOk_iff.2 hb) w h

theorem pixBytes_eq_rowBytes {bpp : Nat} (hb : bpp = 24 ∨ bpp = 32) (w h : Nat) :
    pixBytes w h bpp = rowBytes w bpp * h := by
  rw [pixBytes, stride_eq_rowBytes hb]

theorem pixOff_eq_rowBytes {bpp : Nat} (hb : bpp = 24 ∨ bpp = 32) (w x y : Nat) :
    pixOff w bpp x y = 54 + y * rowBytes w bpp + x * (bpp / 8) := by
  rw [pixOff, stride_eq_rowBytes hb, bpp8]

theorem pixels_le_rowBytes {bpp : Nat} (hb : bpp = 24 ∨ bpp = 32) (w : Nat) :
    w * (bpp / 8) ≤ rowBytes w bpp := by
  rw [← stride_eq_rowBytes hb]
  exact Nat.le_add_right ..

/-- R75: the bytes of a pixel of the image end within the stream. -/
theorem pixel_end_le {bpp w h x y : Nat} (hb : bpp = 24 ∨ bpp = 32) (hx : x < w) (hy : y < h) :
    54 + y * rowBytes w bpp + x * (bpp / 8) + bpp / 8 ≤ 54 + rowBytes w bpp * h :=
  calc 54 + y * rowBytes w bpp + x * (bpp / 8) + bpp / 8
    _ = 54 + y * rowBytes w bpp + (x + 1) * (bpp / 8) := by ring
    _ ≤ 54 + y * rowBytes w bpp + rowBytes w bpp :=
      Nat.add_le_add_left ((Nat.mul_le_mul_right _ hx).trans (pixels_le_rowBytes hb w)) _
    _ = 54 + rowBytes w bpp * (y + 1) := by ring
    _ ≤ 54 + rowBytes w bpp * h := Nat.add_le_add_left (Nat.mul_le_mul_left _ hy) _

/-! #### DECODE's checks (R80) -/

theorem exec_decode_short {s : State} (hn : s.latch.inLen.toNat < 54) :
    exec .decode s = .next (s.raise .fmtShortHeader) :=
  if_pos hn

theorem exec_decode_badSignature {s : State} (hn : 54 ≤ s.latch.inLen.toNat)
    (h : s.inByte 0 ≠ 0x42 ∨ s.inByte 1 ≠ 0x4D) :
    exec .decode s = .next (s.raise .fmtBadSignature) :=
  (if_neg (Nat.not_lt.2 hn)).trans (if_pos h)

/-- R80: a stream's header is read when it is long enough and its signature is good. -/
structure State.HeaderReadable (s : State) : Prop where
  length : 54 ≤ s.latch.inLen.toNat
  byte0 : s.inByte 0 = 0x42
  byte1 : s.inByte 1 = 0x4D

/-- R81, R82: the warnings for the stream in IN_BUF. -/
def State.streamWarnings (s : State) : ResultFlags :=
  { warnTrail :=
      decide (54 + rowBytes (s.u32At 18) (s.u16At 28) * s.u32At 22 < s.latch.inLen.toNat)
    warnHdrSize := decide (s.u32At 14 ≠ 40) }

/-- R80: the state that DECODE of a good stream completes in. -/
def State.decoded (s : State) : State :=
  (s.putImage s.parseHeader (s.decodedGrid (s.u32At 18) (s.u32At 22) (s.u16At 28))).finish .none
    s.streamWarnings

/-- A header register holds `v` exactly when the field it was read from does. -/
theorem word_eq_iff_of_toNat {x v : Word} {n : Nat} (h : x.toNat = n) : x = v ↔ n = v.toNat := by
  rw [← h, BitVec.toNat_inj]

/-- R80: the checks after the signature, in terms of the fields of the stream. -/
theorem exec_decode_readable {s : State} (hs : s.HeaderReadable) :
    exec .decode s = .next (
      if ¬(s.u16At 28 = 24 ∨ s.u16At 28 = 32) then s.raise .fmtUnsupportedDepth
      else if s.u32At 30 ≠ 0 then s.raise .fmtUnsupportedCompression
      else if s.cfg.maxW < s.u32At 18 ∨ s.cfg.maxH < s.u32At 22 ∨
          s.cfg.maxPixels < s.u32At 18 * s.u32At 22 then s.raise .capacity
      else if s.latch.inLen.toNat < 54 + rowBytes (s.u32At 18) (s.u16At 28) * s.u32At 22 then
        s.raise .fmtTruncatedPixelData
      else s.decoded) := by
  obtain ⟨hn, h0, h1⟩ := hs
  have hf := s.parseHeader_fields
  have hx : exec .decode s = .next (s.decodeBody s.latch.inLen.toNat s.parseHeader) :=
    (if_neg (Nat.not_lt.2 hn)).trans (if_neg (by simp [h0, h1]))
  have hi : (s.parseHeader.infoSize != 40) = decide (s.u32At 14 ≠ 40) := by
    rw [Bool.eq_iff_iff, bne_iff_ne, decide_eq_true_iff]
    exact (word_eq_iff_of_toNat hf.infoSize).not
  rw [hx, State.decodeBody]
  simp only [zext32, hf.bpp, hf.width, hf.height, ne_eq, word_eq_iff_of_toNat hf.compression, hi]
  by_cases hb : s.u16At 28 = 24 ∨ s.u16At 28 = 32
  · simp [depthOk_iff.2 hb, hb, overCapacity, pixBytes_eq_rowBytes hb, State.decoded,
      State.streamWarnings, Nat.sub_lt_iff_lt_add' hn, Nat.lt_sub_iff_add_lt', or_assoc]
  · simp [hb, depthOk_iff]

/-- Settles O26: each clause is the first check of `exec_decode_readable` that fails, or one of the
two before it. -/
theorem decodeReportsTheFirstError : Obligations.DecodeReportsTheFirstError := by
  unfold Obligations.DecodeReportsTheFirstError
  intro s n w h bpp
  refine ⟨exec_decode_short, exec_decode_badSignature, fun hn h0 h1 h24 h32 => ?_,
    fun hn h0 h1 hb hc => ?_, fun hn h0 h1 hb hc hp => ?_,
    fun hn h0 h1 hb hc hw hh hp ht => ?_⟩ <;> rw [exec_decode_readable ⟨hn, h0, h1⟩]
  · rw [if_pos (not_or.2 ⟨h24, h32⟩)]
  · rw [if_neg (not_not.2 hb), if_pos hc]
  · rw [if_neg (not_not.2 hb), if_neg (not_not.2 hc), if_pos hp]
  · rw [if_neg (not_not.2 hb), if_neg (not_not.2 hc),
      if_neg (not_or.2 ⟨hw.not_gt, not_or.2 ⟨hh.not_gt, hp.not_gt⟩⟩), if_pos ht]

/-! #### The pixels of a stream (R77, R78) -/

/-- A byte above the lowest one is a byte of what stands above it. -/
theorem extractLsb'_append_byte {n : Nat} (x : BitVec n) (b : Byte) (k : Nat) :
    (x ++ b).extractLsb' (k + 8) 8 = x.extractLsb' k 8 := by
  rw [BitVec.extractLsb'_append_eq_of_le (Nat.le_add_left 8 k), Nat.add_sub_cancel]

/-- R34: the bytes of a Color put together from its four bytes. -/
theorem bytes_of_wordOfBytes (b g r a : Byte) :
    (wordOfBytes b g r a).extractLsb' 0 8 = b ∧ (wordOfBytes b g r a).extractLsb' 8 8 = g ∧
    (wordOfBytes b g r a).extractLsb' 16 8 = r ∧ (wordOfBytes b g r a).extractLsb' 24 8 = a :=
  have skip := @extractLsb'_append_byte
  ⟨BitVec.extractLsb'_append_eq_right, (skip _ b 0).trans BitVec.extractLsb'_append_eq_right,
    (skip _ b 8).trans ((skip _ g 0).trans BitVec.extractLsb'_append_eq_right),
    (skip _ b 16).trans ((skip _ g 8).trans BitVec.extractLsb'_append_eq_left)⟩

theorem State.pixelAt_eq (s : State) (bpp o : Nat) :
    s.pixelAt bpp o = wordOfBytes (s.inByte o) (s.inByte (o + 1)) (s.inByte (o + 2))
      (if bpp = 32 then s.inByte (o + 3) else 0xFF#8) := rfl

/-- R77, R78: a decoded pixel's bytes stand at its offset of the stream. -/
theorem State.pixelAt_spec (s : State) (bpp o : Nat) : PixelAt s.inByte bpp o (s.pixelAt bpp o) := by
  obtain ⟨hb, hg, hr, ha⟩ := bytes_of_wordOfBytes (s.inByte o) (s.inByte (o + 1)) (s.inByte (o + 2))
    (if bpp = 32 then s.inByte (o + 3) else 0xFF#8)
  rw [State.pixelAt_eq]
  exact ⟨hb.symm, hg.symm, hr.symm, fun h => by rw [ha, if_pos h]⟩

/-- R78: at 24 bpp a decoded pixel is opaque. -/
theorem State.pixelAt_alpha (s : State) {bpp : Nat} (h : bpp = 24) (o : Nat) :
    (s.pixelAt bpp o).extractLsb' 24 8 = 0xFF := by
  subst h
  exact (bytes_of_wordOfBytes ..).2.2.2

/-- R80: the stream passes all six checks. -/
structure State.StreamOk (s : State) : Prop extends s.HeaderReadable where
  depth : s.u16At 28 = 24 ∨ s.u16At 28 = 32
  compression : s.u32At 30 = 0
  width : s.u32At 18 ≤ s.cfg.maxW
  height : s.u32At 22 ≤ s.cfg.maxH
  pixels : s.u32At 18 * s.u32At 22 ≤ s.cfg.maxPixels
  complete : 54 + rowBytes (s.u32At 18) (s.u16At 28) * s.u32At 22 ≤ s.latch.inLen.toNat

theorem exec_decode_streamOk {s : State} (hs : s.StreamOk) : exec .decode s = .next s.decoded := by
  rw [exec_decode_readable hs.toHeaderReadable, if_neg (not_not.2 hs.depth),
    if_neg (not_not.2 hs.compression),
    if_neg (not_or.2 ⟨hs.width.not_gt, not_or.2 ⟨hs.height.not_gt, hs.pixels.not_gt⟩⟩),
    if_neg (Nat.not_lt.2 hs.complete)]

/-- R80: the decoded pixels are those of the stream. -/
theorem State.get?_decoded_pb (s : State) {x y : Nat} (hx : x < s.u32At 18) (hy : y < s.u32At 22) :
    Grid.get? s.decoded.pb x y
      = some (s.pixelAt (s.u16At 28) (pixOff (s.u32At 18) (s.u16At 28) x y)) :=
  (Grid.get?_build ..).trans (if_pos ⟨hx, hy⟩)

theorem State.decoded_newImage (s : State) :
    NewImage s s.decoded (s.u32At 18) (s.u32At 22)
      (fun x y => s.pixelAt (s.u16At 28) (pixOff (s.u32At 18) (s.u16At 28) x y)) s.streamWarnings :=
  putImage_newImage (Grid.hasShape_build ..) fun _ _ => s.get?_decoded_pb

/-- Settles O27: a stream that passes every check is committed as a new image. -/
theorem decodeStoresTheStream : Obligations.DecodeStoresTheStream := by
  unfold Obligations.DecodeStoresTheStream
  intro s n w h bpp hn h0 h1 hb hc hw hh hp hl
  refine ⟨s.decoded, _, exec_decode_streamOk ⟨⟨hn, h0, h1⟩, hb, hc, hw, hh, hp, hl⟩,
    s.parseHeader_fields, fun x y _ _ => ⟨?_, fun h24 => ?_⟩, s.decoded_newImage⟩
  · rw [← pixOff_eq_rowBytes hb]
    exact s.pixelAt_spec bpp _
  · exact s.pixelAt_alpha h24 _

/-! #### ENCODE (R85) -/

/-- R85: the state that ENCODE completes in. -/
def State.encoded (s : State) : State :=
  (s.putOutput s.encodedCells (trunc32 s.encodedLen)).finish .none {}

theorem exec_encode_absent {s : State} (hv : s.status.valid = false) :
    exec .encode s = .next (s.raise .noImage) :=
  State.needImage_absent hv _

theorem exec_encode_present {s : State} (hi : HasImage s) : exec .encode s = .next s.encoded :=
  State.needImage_present hi.valid hi.consistent _

theorem State.encodedLen_eq {s : State} (hi : ImageFacts s) :
    s.encodedLen = 54 + rowBytes s.width s.depth * s.height := by
  rw [State.encodedLen, pixBytes_eq_rowBytes (depthOk_iff.1 hi.depth)]

/-- R87: OUT_LEN holds the length of the stream, which never wraps (R7). -/
theorem State.encoded_outLen {s : State} (hp : s.cfg.wf = true) (hi : ImageFacts s) :
    s.encoded.outLen.toNat = s.encodedLen := by
  have hle := State.encodedLen_le hp hi
  have hcap := (Params.facts hp).outCap
  exact trunc32_toNat (by omega)

theorem State.encoded_completed (s : State) : Completed s.encoded .none {} := by
  constructor <;> rfl

theorem State.encoded_sameImage (s : State) : SameImage s s.encoded := ⟨rfl, rfl, rfl⟩

theorem State.encoded_kept (s : State) : KeptByCommands s s.encoded := by
  constructor <;> simp [State.encoded]

section
variable {s : State} (hi : ImageFacts s)
include hi

/-- R85: a byte ENCODE writes is what OUT_BUF holds at its index. -/
theorem State.encoded_outByte {k : Nat} {b : Byte} (h : (k, b) ∈ s.encodedCells) :
    s.encoded.outByte k = b := by
  rw [State.encoded, State.finish_outByte]
  exact State.outByte_of_mem hi h _

/-- R72: a field among the header's cells stands in the encoded stream. -/
theorem State.encoded_fieldAt {o n v : Nat} (h : leCells o n v ⊆ s.hdr.cells) :
    FieldAt s.encoded.outByte o n v := by
  intro k hk
  have hm := h (mem_leCells.2 ⟨k, hk, rfl⟩)
  rw [State.encoded_outByte hi (State.headerCells_subset hm), BitVec.toNat_ofNat]

/-- R70, R86: the header registers stand in the first 54 bytes. -/
theorem State.encoded_headerAt : HeaderAt s.encoded.outByte s.hdr := by
  constructor <;> exact State.encoded_fieldAt hi fun c hc => by simp [Header.cells, hc]

/-- R77, R78: the bytes of each pixel stand at its offset. -/
theorem State.encoded_pixelAt {x y : Nat} {c : Color} (hc : Grid.get? s.pb x y = some c) :
    PixelAt s.encoded.outByte s.depth (pixOff s.width s.depth x y) c := by
  have hm {k : Nat} {b : Byte} (h : (k, b) ∈ pixelCells s.depth (pixOff s.width s.depth x y) c) :
      s.encoded.outByte k = b :=
    State.encoded_outByte hi (State.pixelCells_subset hc h)
  exact ⟨hm (by simp [pixelCells]), hm (by simp [pixelCells]), hm (by simp [pixelCells]),
    fun h => hm (by simp [pixelCells, h])⟩

/-- R78: the bytes between the pixels of a row and the row's end are zero. -/
theorem State.encoded_padding {y k : Nat} (hy : y < s.height) (hk : s.width * bpp8 s.depth ≤ k)
    (hr : k < stride s.width s.depth) :
    s.encoded.outByte (54 + y * stride s.width s.depth + k) = 0 := by
  refine State.encoded_outByte hi (State.padCells_subset hi hy (List.mem_map.2
    ⟨k - s.width * bpp8 s.depth, List.mem_range.2 ?_, ?_⟩))
  · rw [stride] at hr; omega
  · rw [Nat.add_assoc _ (_ * _), Nat.add_sub_cancel' hk]; rfl

/-- R41: every byte at OUT_LEN and above keeps its value. -/
theorem State.encoded_beyond {k : Nat} (hk : s.encodedLen ≤ k) :
    s.encoded.outByte k = s.outByte k := by
  rw [State.encoded, State.finish_outByte]
  exact State.outByte_beyond hi hk _

end

/-- Settles O28, from the laws of `State.encoded`. -/
theorem encodeWritesTheStream : Obligations.EncodeWritesTheStream := by
  unfold Obligations.EncodeWritesTheStream
  refine fun s => ⟨exec_encode_absent, fun hp himg => ?_⟩
  have hi := State.imageOk_iff.1 himg.consistent
  have hb := depthOk_iff.1 hi.depth
  have hlen := State.encoded_outLen hp hi
  refine ⟨s.encoded, exec_encode_present himg, hlen.trans (State.encodedLen_eq hi),
    State.encoded_headerAt hi, fun x y c hc => ?_, fun y k hy hk hr => ?_, fun k hk => ?_,
    s.encoded_completed, s.encoded_sameImage, rfl, s.encoded_kept⟩
  · rw [← pixOff_eq_rowBytes hb]
    exact State.encoded_pixelAt hi hc
  · rw [← stride_eq_rowBytes hb] at hr ⊢
    exact State.encoded_padding hi hy hk hr
  · exact State.encoded_beyond hi (hlen ▸ hk)

/-! #### The round trip (R88) -/

/-- R71, R72: a field that stands in the stream is what it reads as. -/
theorem FieldAt.leSum_eq {byte : Nat → Byte} {o n v : Nat} (h : FieldAt byte o n v)
    (hv : v < 2 ^ (8 * n)) : leSum byte o n = v := by
  rw [leSum_of_bytes byte o n v, Nat.mod_eq_of_lt hv]
  intro k hk
  exact BitVec.eq_of_toNat_eq (by rw [h k hk, BitVec.toNat_ofNat])

/-- R70: a stream has one header. -/
theorem HeaderOfStream.unique {s : State} {h h' : Header} (hs : HeaderOfStream s h)
    (hs' : HeaderOfStream s h') : h = h' := by
  have e {w : Nat} {x y : BitVec w} {n : Nat} (hx : x.toNat = n) (hy : y.toNat = n) : x = y :=
    BitVec.eq_of_toNat_eq (hx.trans hy.symm)
  cases h
  cases h'
  exact Header.mk.injEq .. ▸ ⟨e hs.signature hs'.signature, e hs.fileSize hs'.fileSize,
    e hs.reserved hs'.reserved, e hs.dataOffset hs'.dataOffset, e hs.infoSize hs'.infoSize,
    e hs.width hs'.width, e hs.height hs'.height, e hs.planes hs'.planes, e hs.bpp hs'.bpp,
    e hs.compression hs'.compression, e hs.pixelDataSize hs'.pixelDataSize,
    e hs.trail0 hs'.trail0, e hs.trail1 hs'.trail1, e hs.trail2 hs'.trail2,
    e hs.trail3 hs'.trail3⟩

section
variable {s : State} {byte : Nat → Byte} (he : ∀ i < 54, s.inByte i = byte i)
include he

theorem FieldAt.u16At {o : Nat} {v : Half} (h : FieldAt byte o 2 v.toNat)
    (ho : o + 2 ≤ 54 := by decide) : v.toNat = s.u16At o := by
  rw [← State.le_two, State.le, leSum_congr fun k hk => he _ (by omega), h.leSum_eq v.isLt]

theorem FieldAt.u32At {o : Nat} {v : Word} (h : FieldAt byte o 4 v.toNat)
    (ho : o + 4 ≤ 54 := by decide) : v.toNat = s.u32At o := by
  rw [← State.le_four, State.le, leSum_congr fun k hk => he _ (by omega), h.leSum_eq v.isLt]

/-- R70 to R72: header registers whose bytes stand in IN_BUF are the fields of the stream there. -/
theorem HeaderAt.headerOfStream {hd : Header} (h : HeaderAt byte hd) : HeaderOfStream s hd :=
  ⟨h.signature.u16At he, h.fileSize.u32At he, h.reserved.u32At he, h.dataOffset.u32At he,
    h.infoSize.u32At he, h.width.u32At he, h.height.u32At he, h.planes.u16At he, h.bpp.u16At he,
    h.compression.u32At he, h.pixelDataSize.u32At he, h.trail0.u32At he, h.trail1.u32At he,
    h.trail2.u32At he, h.trail3.u32At he⟩

end

/-- R70: the signature's u16 value and its two bytes. -/
theorem State.signature_bytes {s : State} (h : s.u16At 0 = 0x4D42) :
    s.inByte 0 = 0x42 ∧ s.inByte 1 = 0x4D := by
  have h0 := (s.inByte 0).isLt
  simp only [State.u16At, Nat.zero_add] at h
  exact ⟨BitVec.eq_of_toNat_eq (show _ = 0x42 by omega),
    BitVec.eq_of_toNat_eq (show _ = 0x4D by omega)⟩

/-- R88: what the round trip makes of a pixel. -/
def roundTripColor (bpp : Nat) (c : Color) : Color :=
  if bpp = 32 then c else 0xFF#8 ++ c.extractLsb' 0 24

/-- R34: a Color without its alpha is its three other bytes. -/
theorem opaque_eq_wordOfBytes (c : Color) :
    (0xFF#8 ++ c.extractLsb' 0 24 : Color)
      = wordOfBytes (c.extractLsb' 0 8) (c.extractLsb' 8 8) (c.extractLsb' 16 8) 0xFF := by
  have low {k : Nat} (hk : k + 8 ≤ 24) :
      (0xFF#8 ++ c.extractLsb' 0 24 : Color).extractLsb' k 8 = c.extractLsb' k 8 := by
    rw [BitVec.extractLsb'_append_eq_of_add_le hk, BitVec.extractLsb'_extractLsb'_of_le hk]
  have high : (0xFF#8 ++ c.extractLsb' 0 24 : Color).extractLsb' 24 8 = 0xFF :=
    BitVec.extractLsb'_append_eq_left
  rw [← wordOfBytes_bytes (0xFF#8 ++ c.extractLsb' 0 24 : Color), low (by decide), low (by decide),
    low (by decide), high]

/-- R88: a pixel whose alpha the stream keeps, or whose alpha is 0xFF, comes back as it was. -/
theorem roundTripColor_eq_self {bpp : Nat} {c : Color}
    (h : bpp = 32 ∨ c.extractLsb' 24 8 = 0xFF) : roundTripColor bpp c = c := by
  rw [roundTripColor]
  split_ifs with hb
  · rfl
  · rw [opaque_eq_wordOfBytes, ← h.resolve_left hb, wordOfBytes_bytes]

/-- R77, R78: decoding the bytes of a pixel. -/
theorem State.pixelAt_eq_roundTripColor {s : State} {bpp o : Nat} {c : Color}
    (h : PixelAt s.inByte bpp o c) : s.pixelAt bpp o = roundTripColor bpp c := by
  obtain ⟨hb, hg, hr, ha⟩ := h
  rw [State.pixelAt_eq, roundTripColor, hb, hg, hr]
  split_ifs with h32
  · rw [ha h32, wordOfBytes_bytes]
  · exact (opaque_eq_wordOfBytes c).symm

/-- A pixel stands in every stream with the same bytes at its place. -/
theorem PixelAt.congr {f g : Nat → Byte} {bpp o n : Nat} {c : Color} (hb : bpp = 24 ∨ bpp = 32)
    (h : PixelAt f bpp o c) (he : ∀ i < n, g i = f i) (ho : o + bpp / 8 ≤ n) :
    PixelAt g bpp o c := by
  obtain ⟨h0, h1, h2, h3⟩ := h
  have h24 : o + 3 ≤ n := by omega
  exact ⟨(he _ (by omega)).trans h0, (he _ (by omega)).trans h1, (he _ (by omega)).trans h2,
    fun h32 => (he _ (by omega)).trans (h3 h32)⟩

/-- R88: `u` has the stream that ENCODE wrote from `s` as its input. -/
structure State.Copied (s u : State) : Prop where
  cfg : u.cfg = s.cfg
  inLen : u.latch.inLen = s.encoded.outLen
  inByte : ∀ i < s.encoded.outLen.toNat, u.inByte i = s.encoded.outByte i

section
variable {s u : State} (hp : s.cfg.wf = true) (hi : ImageFacts s) (hu : s.Copied u)
include hp hi hu

theorem State.Copied.inLen_eq :
    u.latch.inLen.toNat = 54 + rowBytes s.width s.depth * s.height := by
  rw [hu.inLen, State.encoded_outLen hp hi, State.encodedLen_eq hi]

theorem State.Copied.inByte_eq {i : Nat} (h : i < 54 + rowBytes s.width s.depth * s.height) :
    u.inByte i = s.encoded.outByte i :=
  hu.inByte i (by rwa [← hu.inLen, hu.inLen_eq hp hi])

theorem State.Copied.header : HeaderOfStream u s.hdr :=
  HeaderAt.headerOfStream (fun _ h => hu.inByte_eq hp hi (by omega)) (State.encoded_headerAt hi)

theorem State.Copied.parseHeader_eq : u.parseHeader = s.hdr :=
  u.parseHeader_fields.unique (hu.header hp hi)

theorem State.Copied.width_eq : u.u32At 18 = s.width := (hu.header hp hi).width.symm
theorem State.Copied.height_eq : u.u32At 22 = s.height := (hu.header hp hi).height.symm
theorem State.Copied.depth_eq : u.u16At 28 = s.depth := (hu.header hp hi).bpp.symm

/-- R88: the copied stream passes DECODE's checks. -/
theorem State.Copied.streamOk : u.StreamOk := by
  have hf := hu.header hp hi
  obtain ⟨h0, h1⟩ := State.signature_bytes (hf.signature.symm.trans (by rw [hi.signature]; rfl))
  obtain ⟨hw, hh, hm⟩ := overCapacity_false.1 hi.capacity
  have hlen := hu.inLen_eq hp hi
  rw [← hu.cfg, ← hu.width_eq hp hi] at hw
  rw [← hu.cfg, ← hu.height_eq hp hi] at hh
  rw [← hu.cfg, ← hu.width_eq hp hi, ← hu.height_eq hp hi] at hm
  refine ⟨⟨by omega, h0, h1⟩, ?_, ?_, hw, hh, hm, ?_⟩
  · rw [hu.depth_eq hp hi]
    exact depthOk_iff.1 hi.depth
  · exact (word_eq_iff_of_toNat hf.compression).1 hi.compression
  · rw [hlen, hu.width_eq hp hi, hu.height_eq hp hi, hu.depth_eq hp hi]

/-- R88: nothing trails the copied stream. -/
theorem State.Copied.streamWarnings_eq :
    u.streamWarnings = { warnHdrSize := decide (s.hdr.infoSize ≠ 40) } := by
  have hi40 := word_eq_iff_of_toNat (v := 40) (hu.header hp hi).infoSize
  rw [State.streamWarnings, hu.inLen_eq hp hi, hu.width_eq hp hi, hu.height_eq hp hi,
    hu.depth_eq hp hi, decide_eq_false (Nat.lt_irrefl _), decide_eq_decide.2 hi40.not]
  rfl

theorem State.Copied.decoded_shape : Grid.hasShape u.decoded.pb s.width s.height = true := by
  rw [← hu.width_eq hp hi, ← hu.height_eq hp hi]
  exact u.decoded_newImage.shape

/-- R88: each pixel comes back, at 24 bpp with alpha 0xFF. -/
theorem State.Copied.get?_decoded {x y : Nat} {c : Color} (hc : Grid.get? s.pb x y = some c) :
    Grid.get? u.decoded.pb x y = some (roundTripColor s.depth c) := by
  have hb := depthOk_iff.1 hi.depth
  obtain ⟨hx, hy⟩ := (Grid.get?_isSome hi.shape x y).1 (hc ▸ rfl)
  have hpx : PixelAt u.inByte s.depth (pixOff s.width s.depth x y) c :=
    (State.encoded_pixelAt hi hc).congr hb (fun _ h => hu.inByte_eq hp hi h)
      (by rw [pixOff_eq_rowBytes hb]; exact pixel_end_le hb hx hy)
  rw [u.get?_decoded_pb (by rwa [hu.width_eq hp hi]) (by rwa [hu.height_eq hp hi]),
    hu.width_eq hp hi, hu.depth_eq hp hi, State.pixelAt_eq_roundTripColor hpx]

/-- R88: the image comes back as it was when the stream loses no alpha. -/
theorem State.Copied.decoded_pb_eq
    (ha : s.depth = 32 ∨ ∀ x y c, Grid.get? s.pb x y = some c → c.extractLsb' 24 8 = 0xFF) :
    u.decoded.pb = s.pb := by
  refine Grid.ext_get? (hu.decoded_shape hp hi) hi.shape fun x y hx hy => ?_
  obtain ⟨c, hc⟩ := Option.isSome_iff_exists.1 ((Grid.get?_isSome hi.shape x y).2 ⟨hx, hy⟩)
  rw [hu.get?_decoded hp hi hc, roundTripColor_eq_self (ha.imp_right fun h => h x y c hc), hc]

end

/-- Settles O29: the copied stream passes every check of DECODE, and its fields and pixels are those
that ENCODE wrote. -/
theorem decodeUndoesEncode : Obligations.DecodeUndoesEncode := by
  unfold Obligations.DecodeUndoesEncode
  intro s hp himg
  have hi := State.imageOk_iff.1 himg.consistent
  refine ⟨s.encoded, exec_encode_present himg, fun u hcfg hlen hbyte => ?_⟩
  have hu : s.Copied u := ⟨hcfg, hlen, hbyte⟩
  exact ⟨u.decoded, exec_decode_streamOk (hu.streamOk hp hi), hu.parseHeader_eq hp hi,
    hu.streamWarnings_eq hp hi ▸ u.decoded_newImage.completed, rfl, hu.decoded_shape hp hi,
    fun x y c hc => hu.get?_decoded hp hi hc, hu.decoded_pb_eq hp hi⟩

end Sys2Proof.Machine

/-! ### Construction and access (41_buffer.md) -/

namespace Sys2Proof.Machine

open Sys2Proof

/-! #### CONSTRUCT and CONSTRUCT_C (R89 to R91) -/

theorem overCapacity_true {p : Params} {w h : Nat} :
    overCapacity p w h = true ↔ p.maxW < w ∨ p.maxH < h ∨ p.maxPixels < w * h := by
  simp [overCapacity, or_assoc]

/-- R89: the state that a constructing command completes in, with `g` as its image. -/
def State.constructed (s : State) (g : Grid) : State :=
  (s.putImage (constructedHeaders s.opW s.opH s.opBpp) g).finish .none {}

/-- R89, R91, R115: the checks that CONSTRUCT and CONSTRUCT_C share; `t` is the outcome when the
operands pass them. -/
def State.checkConstruct (s t : State) : State :=
  if !depthOk s.opBpp then s.raise .badArg
  else if overCapacity s.cfg s.opW s.opH then s.raise .capacity
  else t

theorem exec_construct (s : State) :
    exec .construct s =
      .next (s.checkConstruct (s.constructed (Grid.filled s.opW s.opH s.opColor0))) := by
  rw [exec, execConstruct, State.checkConstruct]
  split_ifs <;> rfl

theorem exec_constructC (s : State) :
    exec .constructC s =
      .next (s.checkConstruct (
        if s.opW = 0 ∨ s.opH = 0 then s.raise .index
        else s.constructed
          (Grid.put (Grid.filled s.opW s.opH s.opColor0) (s.opW / 2) (s.opH / 2) s.opColor1))) := by
  rw [exec, execConstructC, State.checkConstruct]
  split_ifs <;> rfl

section
variable {s : State} (t : State)

theorem State.checkConstruct_badArg (h24 : s.opBpp ≠ 24) (h32 : s.opBpp ≠ 32) :
    s.checkConstruct t = s.raise .badArg :=
  if_pos (by simp [depthOk, h24, h32])

variable (hb : s.opBpp = 24 ∨ s.opBpp = 32)
include hb

theorem State.checkConstruct_capacity
    (hc : s.cfg.maxW < s.opW ∨ s.cfg.maxH < s.opH ∨ s.cfg.maxPixels < s.opW * s.opH) :
    s.checkConstruct t = s.raise .capacity :=
  (if_neg (by simp [depthOk_iff.2 hb])).trans (if_pos (overCapacity_true.2 hc))

theorem State.checkConstruct_pass (hc : overCapacity s.cfg s.opW s.opH = false) :
    s.checkConstruct t = t :=
  (if_neg (by simp [depthOk_iff.2 hb])).trans (if_neg (by simp [hc]))

/-- R90: the header registers of a constructed image. -/
theorem State.constructed_headers (hp : s.cfg.wf = true)
    (hc : overCapacity s.cfg s.opW s.opH = false) (g : Grid) :
    IsConstructed (s.constructed g).hdr s.opW s.opH s.opBpp :=
  constructedHeaders_spec hp hb hc (BitVec.isLt _) (BitVec.isLt _)

end

/-- R89: every pixel of a filled image has the fill colour. -/
theorem State.constructed_filled_newImage (s : State) (c : Color) :
    NewImage s (s.constructed (Grid.filled s.opW s.opH c)) s.opW s.opH (fun _ _ => c) {} :=
  putImage_newImage (Grid.hasShape_filled ..) fun _ _ hx hy =>
    (Grid.get?_filled ..).trans (if_pos ⟨hx, hy⟩)

/-- R91: one pixel of the filled image is set to the second colour. -/
theorem State.constructed_put_newImage (s : State) (i j : Nat) (c d : Color) :
    NewImage s (s.constructed (Grid.put (Grid.filled s.opW s.opH c) i j d)) s.opW s.opH
      (fun x y => if x = i ∧ y = j then d else c) {} := by
  refine putImage_newImage (Grid.hasShape_put (Grid.hasShape_filled ..) ..) fun x y hx hy => ?_
  rw [Grid.get?_put, Grid.get?_filled, if_pos (And.intro hx hy), Option.map_some, apply_ite some]

/-- Settles O30: the two checks, then the filled image. -/
theorem constructBuildsTheFilledImage : Obligations.ConstructBuildsTheFilledImage := by
  unfold Obligations.ConstructBuildsTheFilledImage
  intro s hp w h bpp
  rw [exec_construct]
  refine ⟨fun h24 h32 => ?_, fun hb hc => ?_, fun hb hw hh hm => ?_⟩
  · rw [State.checkConstruct_badArg _ h24 h32]
  · rw [State.checkConstruct_capacity _ hb hc]
  · have hc : overCapacity s.cfg s.opW s.opH = false := overCapacity_false.2 ⟨hw, hh, hm⟩
    rw [State.checkConstruct_pass _ hb hc]
    exact ⟨_, rfl, State.constructed_headers hb hp hc _, s.constructed_filled_newImage _⟩

/-- Settles O31: the two checks and the check for an empty image, then the filled image with its
centre pixel set. -/
theorem constructCSetsTheCentrePixel : Obligations.ConstructCSetsTheCentrePixel := by
  unfold Obligations.ConstructCSetsTheCentrePixel
  intro s hp w h bpp
  rw [exec_constructC]
  refine ⟨fun h24 h32 => ?_, fun hb hc => ?_, fun hb hw hh hm h0 => ?_,
    fun hb hw hh hm hw0 hh0 => ?_⟩
  · rw [State.checkConstruct_badArg _ h24 h32]
  · rw [State.checkConstruct_capacity _ hb hc]
  · have h0 : s.opW = 0 ∨ s.opH = 0 := h0
    rw [State.checkConstruct_pass _ hb (overCapacity_false.2 ⟨hw, hh, hm⟩), if_pos h0]
  · have hc : overCapacity s.cfg s.opW s.opH = false := overCapacity_false.2 ⟨hw, hh, hm⟩
    have h0 : ¬(s.opW = 0 ∨ s.opH = 0) := not_or.2 ⟨hw0.ne', hh0.ne'⟩
    rw [State.checkConstruct_pass _ hb hc, if_neg h0]
    exact ⟨_, rfl, State.constructed_headers hb hp hc _, s.constructed_put_newImage ..⟩

/-! #### GET_PIXEL (R92) -/

theorem exec_getPixel_outside {s : State} (hi : HasImage s) (hx : ¬s.Inside s.opX0 s.opY0) :
    exec .getPixel s = .next (s.raise .index) :=
  (State.needImage_present hi.valid hi.consistent _).trans (if_neg (mt State.inside_iff.2 hx))

theorem exec_getPixel_inside {s : State} (hi : HasImage s) (hx : s.Inside s.opX0 s.opY0) {c : Color}
    (hc : Grid.get? s.pb s.opX0.toNat s.opY0.toNat = some c) :
    exec .getPixel s = .next ((s.putResult c).finish .none {}) := by
  rw [exec, execGetPixel, State.needImage_present hi.valid hi.consistent,
    if_pos (State.inside_iff.1 hx), hc]

/-- Settles O32: a pixel inside an image that meets R32 is there, and RESULT alone takes it. -/
theorem getPixelReadsThePixel : Obligations.GetPixelReadsThePixel := by
  unfold Obligations.GetPixelReadsThePixel
  intro s x y
  refine ⟨fun hv => State.needImage_absent hv _, exec_getPixel_outside, fun hi hx => ?_⟩
  obtain ⟨c, hc⟩ := Grid.get?_of_inBounds (State.imageOk_iff.1 hi.consistent).shape
    (State.inside_iff.1 hx)
  refine ⟨c, _, hc, exec_getPixel_inside hi hx hc, rfl, ?_, ⟨rfl, rfl, rfl⟩, rfl, fun k => rfl, ?_⟩
  · constructor <;> rfl
  · constructor <;> simp

end Sys2Proof.Machine

/-! ### Points and rectangles (42_point_rect.md) -/

namespace Sys2Proof.Machine

open Sys2Proof

/-- R94: the state that a command completes in when it paints the selected pixels and clips none. -/
def State.painted (s : State) (sel : Nat → Nat → Bool) : State :=
  (s.putGrid (Grid.paint s.pb sel s.opColor0)).finish .none {}

theorem State.painted_drawn {s : State} (hi : HasImage s) {sb : Nat → Nat → Bool}
    {sel : Int → Int → Prop} (h : ∀ x y : Nat, sb x y = true ↔ sel x y) :
    Drawn s (s.painted sb) sel False :=
  paint_drawn (State.imageOk_iff.1 hi.consistent) h

/-- Completing with the image as it was draws nothing. -/
theorem State.finish_drawn {s : State} (hi : HasImage s) {clip : Bool} {cl : Prop}
    (hc : clip = true ↔ cl) :
    Drawn s (s.finish .none { clip := clip }) (fun _ _ => False) cl :=
  have hf := State.imageOk_iff.1 hi.consistent
  putGrid_drawn hf (g := s.pb) hf.shape (fun _ _ _ h => h.elim) (fun _ _ _ _ => rfl) hc

/-! #### SET_PIXEL (R95, R96) -/

theorem exec_setPixel_outside {s : State} (hi : HasImage s) (hx : ¬s.Inside s.opX0 s.opY0) :
    exec .setPixel s = .next (s.finish .none { clip := true }) :=
  (State.needImage_present hi.valid hi.consistent _).trans (if_neg (mt State.inside_iff.2 hx))

theorem exec_setPixel_inside {s : State} (hi : HasImage s) (hx : s.Inside s.opX0 s.opY0) :
    exec .setPixel s = .next (s.painted (pointSelects s.opX0 s.opY0 s.opThick)) :=
  (State.needImage_present hi.valid hi.consistent _).trans (if_pos (State.inside_iff.1 hx))

/-- R96: the neighbourhood is the points within t of the centre in both coordinates. -/
theorem inNeighbourhood_iff {x y : Int} {t px py : Nat} :
    inNeighbourhood x y t px py = true ↔ |(px : Int) - x| ≤ t ∧ |(py : Int) - y| ≤ t := by
  simp only [inNeighbourhood, Bool.and_eq_true, decide_eq_true_eq, abs_le]
  omega

/-- R95: the centre, and with t > 1 its neighbourhood. -/
theorem pointSelects_iff {x y : Int} {t px py : Nat} :
    pointSelects x y t px py = true ↔
      ((px : Int) = x ∧ (py : Int) = y) ∨
        (1 < (t : Int) ∧ |(px : Int) - x| ≤ t ∧ |(py : Int) - y| ≤ t) := by
  simp only [pointSelects, Bool.or_eq_true, Bool.and_eq_true, beq_iff_eq, decide_eq_true_eq,
    inNeighbourhood_iff, Nat.one_lt_cast]

/-- Settles O33: a centre outside the image draws nothing, and one inside draws what
`pointSelects` selects. -/
theorem setPixelPaintsTheNeighbourhood : Obligations.SetPixelPaintsTheNeighbourhood := by
  unfold Obligations.SetPixelPaintsTheNeighbourhood
  intro s x y r
  refine ⟨fun hv => State.needImage_absent hv _, fun hi hx => ?_, fun hi hx => ?_⟩
  · exact ⟨_, exec_setPixel_outside hi hx, rfl, State.finish_drawn hi (iff_of_true rfl trivial)⟩
  · exact ⟨_, exec_setPixel_inside hi hx, State.painted_drawn hi fun _ _ => pointSelects_iff⟩

/-! #### RECT_OUTLINE and RECT_FILL (R97 to R99) -/

theorem State.rectOk_iff {s : State} :
    s.rectOk = true ↔ s.opX0 ≥ 0 ∧ s.opY0 ≥ 0 ∧ s.opX0 + s.opW ≤ s.width ∧
      s.opY0 + s.opH ≤ s.height := by
  simp only [State.rectOk, Bool.and_eq_true, decide_eq_true_eq, and_assoc, ge_iff_le]

/-- R97: what the two rectangle commands share: RectOK, then painting the selected pixels. -/
def State.drawRect (s : State) (sel : Nat → Nat → Bool) : Host.Outcome State Fault Refusal :=
  s.needImage (if s.rectOk then .next (s.painted sel) else .next (s.raise .index))

theorem exec_rectOutline (s : State) :
    exec .rectOutline s = s.drawRect fun px py =>
      inRect s.opX0 s.opY0 s.opW s.opH px py && onEdge s.opX0 s.opY0 s.opW s.opH px py := rfl

theorem exec_rectFill (s : State) :
    exec .rectFill s = s.drawRect (inRect s.opX0 s.opY0 s.opW s.opH) := rfl

/-- R97: the outcomes of a rectangle command that paints `sel`, with RectOK given as `ok`. -/
theorem State.drawRect_spec {s : State} {ok : Prop} {sb : Nat → Nat → Bool} {sel : Int → Int → Prop}
    (hok : s.rectOk = true ↔ ok) (h : ∀ x y : Nat, sb x y = true ↔ sel x y) :
    (s.status.valid = false → s.drawRect sb = .next (s.raise .noImage)) ∧
    (HasImage s → ¬ok → s.drawRect sb = .next (s.raise .index)) ∧
    (HasImage s → ok → ∃ t, s.drawRect sb = .next t ∧ Drawn s t sel False) := by
  refine ⟨fun hv => State.needImage_absent hv _, fun hi hn => ?_, fun hi hy => ?_⟩ <;>
    rw [State.drawRect, State.needImage_present hi.valid hi.consistent]
  · rw [if_neg (mt hok.1 hn)]
  · rw [if_pos (hok.2 hy)]
    exact ⟨_, rfl, State.painted_drawn hi h⟩

/-- R97: the rectangle by its first and last column and row; none of either when it is empty. -/
theorem inRect_iff {x0 y0 : Int} {w h px py : Nat} :
    inRect x0 y0 w h px py = true ↔
      x0 ≤ (px : Int) ∧ (px : Int) ≤ x0 + w - 1 ∧ y0 ≤ (py : Int) ∧ (py : Int) ≤ y0 + h - 1 := by
  simp only [inRect, Bool.and_eq_true, decide_eq_true_eq, Int.le_sub_one_iff, and_assoc]

theorem onEdge_iff {x0 y0 : Int} {w h px py : Nat} :
    onEdge x0 y0 w h px py = true ↔
      (px : Int) = x0 ∨ (px : Int) = x0 + w - 1 ∨ (py : Int) = y0 ∨ (py : Int) = y0 + h - 1 := by
  simp only [onEdge, Bool.or_eq_true, beq_iff_eq, or_assoc]

/-- Settles O34: the check for an image, RectOK, then the pixels of the rectangle on an edge. -/
theorem rectOutlineDrawsTheEdges : Obligations.RectOutlineDrawsTheEdges := by
  unfold Obligations.RectOutlineDrawsTheEdges
  intro s x0 y0 w h ok
  rw [exec_rectOutline]
  refine State.drawRect_spec State.rectOk_iff fun px py => ?_
  rw [Bool.and_eq_true]
  exact and_congr inRect_iff onEdge_iff

/-- Settles O35: the check for an image, RectOK, then the pixels of the rectangle. -/
theorem rectFillFillsTheRectangle : Obligations.RectFillFillsTheRectangle := by
  unfold Obligations.RectFillFillsTheRectangle
  intro s x0 y0 w h ok
  rw [exec_rectFill]
  exact State.drawRect_spec State.rectOk_iff fun _ _ => inRect_iff

end Sys2Proof.Machine

/-! ### Lines (43_line.md) -/

namespace Sys2Proof.Machine

open Sys2Proof

/-! #### DRAW_LINE (R101) -/

/-- R94: what the commands that plot a list of points share: the check for an image, then the plot
of exactly the points, which clips when one lies outside. -/
theorem State.needImage_drawPoints_spec (s : State) (pts : List (Int × Int)) :
    (s.status.valid = false →
      s.needImage (.next (s.drawPoints s.opColor0 pts)) = .next (s.raise .noImage)) ∧
    (HasImage s → ∃ t, s.needImage (.next (s.drawPoints s.opColor0 pts)) = .next t ∧
      Drawn s t (fun x y => (x, y) ∈ pts) (∃ p ∈ pts, ¬s.Inside p.1 p.2)) :=
  ⟨fun hv => State.needImage_absent hv _,
    fun hi => ⟨_, State.needImage_present hi.valid hi.consistent _,
      drawPoints_drawn (State.imageOk_iff.1 hi.consistent) pts⟩⟩

/-- Settles O36: DRAW_LINE is the plot of LinePoints of the latched endpoints. -/
theorem drawLinePaintsLinePoints : Obligations.DrawLinePaintsLinePoints := by
  unfold Obligations.DrawLinePaintsLinePoints
  exact fun s => s.needImage_drawPoints_spec _

/-! #### The loop of R100 in closed form -/

/-- R100: the rows stepped before the k-th point: as many times dx as bring the error term
`dx / 2 - k * dy` back into [0, dx). A line of one point (dx = 0) steps none, as `z / 0 = 0`. -/
def lineRise (dx dy : Int) (k : Nat) : Int := -((dx / 2 - k * dy) / dx)

/-- R100: the k-th point of the line from (x0, y0) to (x1, y1), x0 ≤ x1, that is not steep once its
coordinates are swapped. -/
def linePoint (steep : Bool) (x0 y0 x1 y1 : Int) (k : Nat) : Int × Int :=
  unsteep steep (x0 + k)
    (if y0 < y1 then y0 + lineRise (x1 - x0) |y1 - y0| k
     else y0 - lineRise (x1 - x0) |y1 - y0| k)

/-- R100: the loop from any error term in [0, dx), or 0 with dx = 0. -/
theorem lineLoop_eq_map {dx dy : Int} (hdy : 0 ≤ dy) (hle : dy ≤ dx) (steep : Bool) (ystep : Int)
    (n : Nat) (x y err : Int) (h0 : 0 ≤ err) (h1 : err < dx ∨ dx = 0 ∧ err = 0) :
    lineLoop steep dx dy ystep n x y err =
      (List.range n).map fun k : Nat =>
        unsteep steep (x + k) (y - ystep * ((err - k * dy) / dx)) := by
  induction n generalizing x y err with
  | zero => rfl
  | succ n ih =>
    have hfirst : err / dx = 0 := by
      rcases h1 with h | ⟨rfl, -⟩
      · exact Int.ediv_eq_zero_of_lt h0 h
      · exact Int.ediv_zero _
    rw [lineLoop, List.range_succ_eq_map, List.map_cons, List.map_map]
    congr 1
    · simp [hfirst]
    · split_ifs with hneg <;> rw [ih _ _ _ (by omega) (by omega)] <;>
        refine List.map_congr_left fun k _ => ?_
      · have hdx : dx ≠ 0 := by omega
        have hwrap : (err - dy + dx - k * dy) / dx = (err - (k + 1 : Nat) * dy) / dx + 1 := by
          rw [← Int.add_mul_ediv_right _ _ hdx]
          congr 1; push_cast; ring
        simp only [Function.comp_apply, hwrap, Nat.succ_eq_add_one]
        congr 1 <;> push_cast <;> ring
      · have herr : err - dy - k * dy = err - (k + 1 : Nat) * dy := by push_cast; ring
        simp only [Function.comp_apply, herr, Nat.succ_eq_add_one]
        congr 1; push_cast; ring

/-- R100: the points of a line after the two swaps. -/
theorem lineFrom_eq_map {x0 y0 x1 y1 : Int} (h : |y1 - y0| ≤ x1 - x0) (steep : Bool) :
    lineFrom steep x0 y0 x1 y1 =
      (List.range ((x1 - x0).toNat + 1)).map (linePoint steep x0 y0 x1 y1) := by
  have hdy : 0 ≤ |y1 - y0| := abs_nonneg _
  rw [lineFrom, Int.natCast_natAbs, lineLoop_eq_map hdy h _ _ _ _ _ _ (by omega) (by omega)]
  refine List.map_congr_left fun k _ => ?_
  rw [linePoint, lineRise]
  congr 1
  split_ifs <;> ring

/-- R100: the first error term, dx / 2, lies in [0, dx) or is 0 with dx = 0. -/
theorem half_ediv_self {dx : Int} (h : 0 ≤ dx) : dx / 2 / dx = 0 := by
  rcases h.eq_or_lt with rfl | h
  · rfl
  · exact Int.ediv_eq_zero_of_lt (by omega) (by omega)

theorem lineRise_zero {dx : Int} (h : 0 ≤ dx) (dy : Int) : lineRise dx dy 0 = 0 := by
  simp [lineRise, half_ediv_self h]

/-- A straight line steps no row. -/
theorem lineRise_flat {dx : Int} (h : 0 ≤ dx) (k : Nat) : lineRise dx 0 k = 0 := by
  simp [lineRise, half_ediv_self h]

/-- By its last point the line has stepped all of its dy rows. -/
theorem lineRise_last {dx dy : Int} (h0 : 0 ≤ dy) (h : dy ≤ dx) : lineRise dx dy dx.toNat = dy := by
  rcases (h0.trans h).eq_or_lt with rfl | hdx
  · simpa [lineRise] using h0.antisymm h
  · rw [lineRise, Int.toNat_of_nonneg hdx.le, Int.sub_mul_ediv_left _ _ hdx.ne',
      half_ediv_self hdx.le, zero_sub, neg_neg]

/-- R100: the error term with the stepped rows made up for. -/
theorem lineRise_bounds {dx : Int} (h : 0 < dx) (dy : Int) (k : Nat) :
    0 ≤ dx / 2 - k * dy + lineRise dx dy k * dx ∧ dx / 2 - k * dy + lineRise dx dy k * dx < dx := by
  have hmod : dx / 2 - k * dy + lineRise dx dy k * dx = (dx / 2 - k * dy) % dx := by
    rw [lineRise, Int.emod_def]; ring
  rw [hmod]
  exact ⟨Int.emod_nonneg _ h.ne', Int.emod_lt_of_pos _ h⟩

/-! #### A line after the two swaps -/

theorem unsteep_injective (steep : Bool) {x y x' y' : Int}
    (h : unsteep steep x y = unsteep steep x' y') : x = x' ∧ y = y' := by
  cases steep
  · exact Prod.mk.inj h
  · exact (Prod.mk.inj h).symm

/-- No two points of a line share a column. -/
theorem linePoint_injective (steep : Bool) (x0 y0 x1 y1 : Int) :
    Function.Injective (linePoint steep x0 y0 x1 y1) := by
  intro j k h
  have hcol := (unsteep_injective steep h).1
  omega

section

variable {x0 y0 x1 y1 : Int} (h : |y1 - y0| ≤ x1 - x0) (steep : Bool)
include h

theorem lineFrom_length : ((lineFrom steep x0 y0 x1 y1).length : Int) = x1 - x0 + 1 := by
  have hdx := (abs_nonneg _).trans h
  rw [lineFrom_eq_map h, List.length_map, List.length_range]
  omega

theorem lineFrom_nodup : (lineFrom steep x0 y0 x1 y1).Nodup := by
  rw [lineFrom_eq_map h]
  exact List.nodup_range.map (linePoint_injective ..)

theorem lineFrom_getElem? {k : Nat} (hk : k ≤ x1 - x0) :
    (lineFrom steep x0 y0 x1 y1)[k]? = some (linePoint steep x0 y0 x1 y1 k) := by
  rw [lineFrom_eq_map h, List.getElem?_map, List.getElem?_range (by omega)]
  rfl

theorem lineFrom_head? : (lineFrom steep x0 y0 x1 y1).head? = some (unsteep steep x0 y0) := by
  have hdx := (abs_nonneg _).trans h
  rw [List.head?_eq_getElem?, lineFrom_getElem? h steep (by simpa using hdx)]
  simp [linePoint, lineRise_zero hdx]

theorem lineFrom_getLast? : (lineFrom steep x0 y0 x1 y1).getLast? = some (unsteep steep x1 y1) := by
  have hdx := (abs_nonneg _).trans h
  have hlast : linePoint steep x0 y0 x1 y1 (x1 - x0).toNat = unsteep steep x1 y1 := by
    rw [linePoint, lineRise_last (abs_nonneg _) h]
    congr 1
    · omega
    · split_ifs with hy
      · rw [abs_of_pos (by omega)]; ring
      · rw [abs_of_nonpos (by omega)]; ring
  rw [lineFrom_eq_map h, List.range_succ, List.map_append, List.map_singleton,
    List.getLast?_concat, hlast]

end

/-- R102 item 4, after the two swaps: a straight line is the pixels between its ends. -/
theorem mem_lineFrom_flat {x0 x1 : Int} (h : x0 ≤ x1) (steep : Bool) (y0 x y : Int) :
    unsteep steep x y ∈ lineFrom steep x0 y0 x1 y0 ↔ y = y0 ∧ x0 ≤ x ∧ x ≤ x1 := by
  have hpoint (k : Nat) : linePoint steep x0 y0 x1 y0 k = unsteep steep (x0 + k) y0 := by
    simp [linePoint, lineRise_flat (sub_nonneg.2 h)]
  rw [lineFrom_eq_map (by simpa using h)]
  simp only [List.mem_map, List.mem_range, hpoint]
  constructor
  · rintro ⟨k, hk, hp⟩
    have := unsteep_injective steep hp
    omega
  · rintro ⟨rfl, hx0, hx1⟩
    exact ⟨(x - x0).toNat, by omega, by congr 1; omega⟩

/-! #### LinePoints (R100, R102) -/

theorem linePoints_eq (x0 y0 x1 y1 : Int) :
    linePoints x0 y0 x1 y1 =
      if |x1 - x0| < |y1 - y0| then lineOrdered true y0 x0 y1 x1
      else lineOrdered false x0 y0 x1 y1 := by
  simp only [linePoints, Int.abs_eq_natAbs, Nat.cast_lt, gt_iff_lt]

/-- A line that is not steep and runs to the right is drawn from its first endpoint. -/
theorem linePoints_flat {x0 y0 x1 y1 : Int} (h : |y1 - y0| ≤ x1 - x0) :
    linePoints x0 y0 x1 y1 = lineFrom false x0 y0 x1 y1 := by
  have hx : x0 ≤ x1 := sub_nonneg.1 ((abs_nonneg _).trans h)
  rw [linePoints_eq, if_neg (h.trans (le_abs_self _)).not_gt, lineOrdered, if_neg hx.not_gt]

/-- A steep line that runs downwards is drawn from its first endpoint. -/
theorem linePoints_steep {x0 y0 x1 y1 : Int} (h : |x1 - x0| < y1 - y0) :
    linePoints x0 y0 x1 y1 = lineFrom true y0 x0 y1 x1 := by
  have hy : y0 < y1 := sub_pos.1 ((abs_nonneg _).trans_lt h)
  rw [linePoints_eq, if_pos (h.trans_le (le_abs_self _)), lineOrdered, if_neg hy.not_gt]

/-- R100: the order of the endpoints does not count once they are swapped. With x0 = x1 there is one
endpoint only, as the line is not steep. -/
theorem lineOrdered_swap {x0 y0 x1 y1 : Int} (h : |y1 - y0| ≤ |x1 - x0|) (steep : Bool) :
    lineOrdered steep x0 y0 x1 y1 = lineOrdered steep x1 y1 x0 y0 := by
  rw [lineOrdered, lineOrdered]
  rcases lt_trichotomy x0 x1 with hlt | rfl | hgt
  · rw [if_neg hlt.not_gt, if_pos hlt]
  · have hy : y1 = y0 := by simpa [sub_eq_zero] using h
    rw [hy]
  · rw [if_pos hgt, if_neg hgt.not_gt]

/-- R102 item 3. -/
theorem linePoints_swap (x0 y0 x1 y1 : Int) :
    linePoints x0 y0 x1 y1 = linePoints x1 y1 x0 y0 := by
  rw [linePoints_eq, linePoints_eq x1, abs_sub_comm x0, abs_sub_comm y0]
  split_ifs with h
  · exact lineOrdered_swap h.le true
  · exact lineOrdered_swap (not_lt.1 h) false

/-- The two lines to look at: what does not depend on the order of the endpoints holds of every line
when it holds of one that is not steep and runs to the right, and of a steep one that runs down. -/
theorem line_cases {P : Int → Int → Int → Int → Prop}
    (swap : ∀ {x0 y0 x1 y1}, P x0 y0 x1 y1 → P x1 y1 x0 y0)
    (flat : ∀ {x0 y0 x1 y1}, |y1 - y0| ≤ x1 - x0 → P x0 y0 x1 y1)
    (steep : ∀ {x0 y0 x1 y1}, |x1 - x0| < y1 - y0 → P x0 y0 x1 y1) (x0 y0 x1 y1 : Int) :
    P x0 y0 x1 y1 := by
  rcases le_or_gt |y1 - y0| |x1 - x0| with h | h
  · rcases le_total x0 x1 with hx | hx
    · exact flat (h.trans_eq (abs_of_nonneg (sub_nonneg.2 hx)))
    · rw [abs_sub_comm, abs_sub_comm x1] at h
      exact swap (flat (h.trans_eq (abs_of_nonneg (sub_nonneg.2 hx))))
  · rcases le_total y0 y1 with hy | hy
    · exact steep (h.trans_eq (abs_of_nonneg (sub_nonneg.2 hy)))
    · rw [abs_sub_comm, abs_sub_comm y1] at h
      exact swap (steep (h.trans_eq (abs_of_nonneg (sub_nonneg.2 hy))))

/-- R102 item 1: the number of points. -/
theorem linePoints_length (x0 y0 x1 y1 : Int) :
    ((linePoints x0 y0 x1 y1).length : Int) = max |x1 - x0| |y1 - y0| + 1 := by
  induction x0, y0, x1, y1 using line_cases with
  | @swap x0 y0 x1 y1 ih => rwa [linePoints_swap, abs_sub_comm x0, abs_sub_comm y0]
  | flat h =>
    rw [linePoints_flat h, lineFrom_length h, max_eq_left (h.trans (le_abs_self _)),
      abs_of_nonneg ((abs_nonneg _).trans h)]
  | steep h =>
    rw [linePoints_steep h, lineFrom_length h.le, max_eq_right (h.le.trans (le_abs_self _)),
      abs_of_nonneg ((abs_nonneg _).trans h.le)]

/-- R102 item 1: no point twice. -/
theorem linePoints_nodup (x0 y0 x1 y1 : Int) : (linePoints x0 y0 x1 y1).Nodup := by
  induction x0, y0, x1, y1 using line_cases with
  | swap ih => rwa [linePoints_swap]
  | flat h => rw [linePoints_flat h]; exact lineFrom_nodup h _
  | steep h => rw [linePoints_steep h]; exact lineFrom_nodup h.le _

/-- R102 item 2. -/
theorem linePoints_ends (x0 y0 x1 y1 : Int) :
    ((linePoints x0 y0 x1 y1).head? = some (x0, y0) ∧
      (linePoints x0 y0 x1 y1).getLast? = some (x1, y1)) ∨
    ((linePoints x0 y0 x1 y1).head? = some (x1, y1) ∧
      (linePoints x0 y0 x1 y1).getLast? = some (x0, y0)) := by
  induction x0, y0, x1, y1 using line_cases with
  | swap ih => rw [linePoints_swap]; exact ih.symm
  | flat h => rw [linePoints_flat h]; exact .inl ⟨lineFrom_head? h _, lineFrom_getLast? h _⟩
  | steep h => rw [linePoints_steep h]; exact .inl ⟨lineFrom_head? h.le _, lineFrom_getLast? h.le _⟩

/-- R102 item 4: horizontal lines are never steep. -/
theorem mem_linePoints_horizontal (x0 x1 y0 x y : Int) :
    (x, y) ∈ linePoints x0 y0 x1 y0 ↔ y = y0 ∧ min x0 x1 ≤ x ∧ x ≤ max x0 x1 := by
  wlog hx : x0 ≤ x1 generalizing x0 x1
  · rw [linePoints_swap, min_comm, max_comm]
    exact this x1 x0 (le_of_not_ge hx)
  rw [linePoints_flat (by simpa using hx), min_eq_left hx, max_eq_right hx]
  exact mem_lineFrom_flat hx false y0 x y

/-- R102 item 4: vertical lines are steep, but for a line of one point. -/
theorem mem_linePoints_vertical (x0 y0 y1 x y : Int) :
    (x, y) ∈ linePoints x0 y0 x0 y1 ↔ x = x0 ∧ min y0 y1 ≤ y ∧ y ≤ max y0 y1 := by
  wlog hy : y0 ≤ y1 generalizing y0 y1
  · rw [linePoints_swap, min_comm, max_comm]
    exact this y1 y0 (le_of_not_ge hy)
  rcases hy.eq_or_lt with rfl | hlt
  · rw [mem_linePoints_horizontal, min_self, max_self, min_self, max_self]
    omega
  · rw [linePoints_steep (by simpa using hlt), min_eq_left hy, max_eq_right hy]
    exact mem_lineFrom_flat hy true x0 y x

/-- Settles O39: each property holds of a line after the two swaps, and does not depend on the order
of the endpoints. -/
theorem linePointsHaveTheFourProperties : Obligations.LinePointsHaveTheFourProperties := by
  unfold Obligations.LinePointsHaveTheFourProperties
  intro x0 y0 x1 y1 pts
  refine ⟨⟨linePoints_length .., linePoints_nodup ..⟩, linePoints_ends ..,
    linePoints_swap .., ?_, ?_⟩
  · rintro rfl
    exact mem_linePoints_horizontal x0 x1 y0
  · rintro rfl
    exact mem_linePoints_vertical x0 y0 y1

/-- Settles O40: `lineRise` is the number of rows that brings the error term into [0, dx). -/
theorem linePointsFollowTheErrorTerm : Obligations.LinePointsFollowTheErrorTerm := by
  unfold Obligations.LinePointsFollowTheErrorTerm
  intro x0 y0 x1 y1 k
  refine ⟨fun hx h hk => ⟨lineRise (x1 - x0) |y1 - y0| k, ?_, lineRise_bounds (sub_pos.2 hx) _ k⟩,
    fun h hk => ⟨lineRise (y1 - y0) |x1 - x0| k, ?_,
      lineRise_bounds ((abs_nonneg _).trans_lt h) _ k⟩⟩
  · rw [linePoints_flat h, lineFrom_getElem? h _ hk]
    rfl
  · rw [linePoints_steep h, lineFrom_getElem? h.le _ hk]
    rfl

end Sys2Proof.Machine

/-! ### Circles (44_circle.md) -/

namespace Sys2Proof.Machine

open Sys2Proof

/-! #### DRAW_CIRCLE (R105) -/

/-- Settles O37: DRAW_CIRCLE is the plot of CirclePoints of the latched centre and radius. -/
theorem drawCirclePaintsCirclePoints : Obligations.DrawCirclePaintsCirclePoints := by
  unfold Obligations.DrawCirclePaintsCirclePoints
  exact fun s => s.needImage_drawPoints_spec _

/-! #### R104: one round of the loop, and its end -/

section
variable {cx cy x y d : Int}

/-- `while y <= x`: outside the octant the loop stops, whatever its fuel. -/
theorem circleLoop_of_lt (h : x < y) (n : Nat) : circleLoop cx cy n x y d = [] := by
  cases n with
  | zero => rfl
  | succ k => exact if_neg h.not_ge

theorem circleLoop_succ (h : y ≤ x) (k : Nat) :
    circleLoop cx cy (k + 1) x y d = octants cx cy x y ++
      (if d ≤ 0 then circleLoop cx cy k x (y + 1) (d + 2 * (y + 1) + 1)
       else circleLoop cx cy k (x - 1) (y + 1) (d + 2 * (y + 1 - (x - 1)) + 1)) :=
  if_pos h

/-- Each round takes at least 1 off `x - y`, so fuel past `x - y + 1` is never used. -/
theorem circleLoop_fuel {m n : Nat} (hm : x - y + 1 ≤ m) (hn : x - y + 1 ≤ n) :
    circleLoop cx cy m x y d = circleLoop cx cy n x y d := by
  rcases lt_or_ge x y with hlt | hle
  · rw [circleLoop_of_lt hlt, circleLoop_of_lt hlt]
  induction m generalizing n x y d with
  | zero => omega
  | succ k ih =>
    obtain ⟨j, rfl⟩ : ∃ j, n = j + 1 := ⟨n - 1, by omega⟩
    have hnext {x' d' : Int} (hx : x' ≤ x) :
        circleLoop cx cy k x' (y + 1) d' = circleLoop cx cy j x' (y + 1) d' := by
      rcases lt_or_ge x' (y + 1) with hlt | hge
      · rw [circleLoop_of_lt hlt, circleLoop_of_lt hlt]
      · exact ih (by omega) (by omega) hge
    rw [circleLoop_succ hle, circleLoop_succ hle, hnext le_rfl, hnext (by omega)]

end

/-- R105: a negative radius. -/
theorem circlePoints_of_neg {r : Int} (h : r < 0) (cx cy : Int) : circlePoints cx cy r = [] :=
  circleLoop_of_lt h _

/-- R105: radius 0 plots the eight images of the zero offset. -/
theorem circlePoints_zero (cx cy : Int) : circlePoints cx cy 0 = octants cx cy 0 0 := by
  simp [circlePoints, circleLoop]

/-- Settles O43: CirclePoints has the fuel `r + 1` that its loop needs. -/
theorem circleLoopEndsByItself : Obligations.CircleLoopEndsByItself := by
  unfold Obligations.CircleLoopEndsByItself
  refine ⟨fun cx cy r n hn => circleLoop_fuel (by omega) (by omega),
    fun cx cy r h => circlePoints_of_neg h cx cy, fun cx cy p => ?_⟩
  rw [circlePoints_zero]
  simp [octants]

/-! #### R104: the octant the loop walks -/

/-- In the eight symmetric points the two coordinates of an offset are known up to sign and order. -/
theorem mem_octants_iff {cx cy x y a b : Int} : (cx + a, cy + b) ∈ octants cx cy x y ↔
    (|a| = |x| ∧ |b| = |y|) ∨ (|a| = |y| ∧ |b| = |x|) := by
  simp only [octants, List.mem_cons, Prod.mk.injEq, List.not_mem_nil, or_false, abs_eq_abs]
  omega

/-- The offsets of the first octant within 1/2 of the circle: in row `y`, the `x` with
`(x - 1/2)^2 + y^2 <= r^2 + 1/4 < (x + 1/2)^2 + y^2`. -/
structure OnArc (r x y : Int) : Prop where
  octant : y ≤ x
  inner : x * (x - 1) + y * y ≤ r * r
  outer : r * r < x * (x + 1) + y * y

/-- A row has one such offset. -/
theorem OnArc.unique {r x x' y : Int} (h0 : 0 ≤ y) (h : OnArc r x y) (h' : OnArc r x' y) :
    x = x' := by
  obtain ⟨ho, hi, hu⟩ := h
  obtain ⟨ho', hi', hu'⟩ := h'
  apply le_antisymm <;> by_contra hlt <;> nlinarith

/-- R104's loop invariant: `d` is the midpoint's error, nothing at or past column `x + 1` is on the
arc, and `(x, y)` itself is while the loop runs. -/
structure CircleInv (r x y d : Int) : Prop where
  column : 0 ≤ x
  row : 0 ≤ y
  error : d = x * (x - 1) + (y + 1) * (y + 1) - r * r
  outer : r * r < x * (x + 1) + y * y
  inner : y ≤ x → x * (x - 1) + y * y ≤ r * r

theorem CircleInv.start {r : Int} (h : 1 ≤ r) : CircleInv r r 0 (1 - r) where
  column := by omega
  row := le_rfl
  error := by ring
  outer := by nlinarith
  inner _ := by nlinarith

section
variable {r x y d : Int} (h : CircleInv r x y d)
include h

theorem CircleInv.onArc (hle : y ≤ x) : OnArc r x y := ⟨hle, h.inner hle, h.outer⟩

/-- d <= 0: the midpoint is inside, so the column stays. -/
theorem CircleInv.stay (hd : d ≤ 0) : CircleInv r x (y + 1) (d + 2 * (y + 1) + 1) := by
  obtain ⟨hcol, hrow, herr, hout, hinn⟩ := h
  exact ⟨hcol, by omega, by rw [herr]; ring, by nlinarith, fun _ => by linarith⟩

/-- d > 0: the midpoint is outside, so the column moves in. -/
theorem CircleInv.moveIn (hle : y ≤ x) (hd : 0 < d) :
    CircleInv r (x - 1) (y + 1) (d + 2 * (y + 1 - (x - 1)) + 1) := by
  obtain ⟨hcol, hrow, herr, hout, hinn⟩ := h
  have hpos : 1 ≤ x := by
    by_contra hlt
    obtain ⟨rfl, rfl⟩ : x = 0 ∧ y = 0 := by omega
    nlinarith
  exact ⟨by omega, by omega, by rw [herr]; ring, by nlinarith, fun _ => by nlinarith [hinn hle]⟩

/-- Where the loop stops, the octant has no offset left. -/
theorem CircleInv.not_onArc {x' y' : Int} (hlt : x < y) (hy : y ≤ y') : ¬OnArc r x' y' := by
  obtain ⟨hcol, hrow, -, hout, -⟩ := h
  rintro ⟨ho, hi, -⟩
  have hx : (x + 1) * x ≤ x' * (x' - 1) := by gcongr <;> omega
  have hyy : y * y ≤ y' * y' := mul_self_le_mul_self hrow hy
  linarith

/-- Both sides are empty there. -/
theorem mem_circleLoop_iff_of_lt {cx cy : Int} {n : Nat} (hlt : x < y) {p : Int × Int} :
    p ∈ circleLoop cx cy n x y d ↔
      ∃ x' y', y ≤ y' ∧ OnArc r x' y' ∧ p ∈ octants cx cy x' y' := by
  rw [circleLoop_of_lt hlt]
  exact ⟨nofun, fun ⟨_, _, hy, ha, _⟩ => absurd ha (h.not_onArc hlt hy)⟩

/-- The loop plots the eight images of every offset on the arc from row `y` on. -/
theorem mem_circleLoop_iff {cx cy : Int} {n : Nat} (hn : x - y + 1 ≤ n) {p : Int × Int} :
    p ∈ circleLoop cx cy n x y d ↔
      ∃ x' y', y ≤ y' ∧ OnArc r x' y' ∧ p ∈ octants cx cy x' y' := by
  induction n generalizing x y d with
  | zero => exact mem_circleLoop_iff_of_lt h (by omega)
  | succ k ih =>
    rcases lt_or_ge x y with hlt | hle
    · exact mem_circleLoop_iff_of_lt h hlt
    have hrest : p ∈ (if d ≤ 0 then circleLoop cx cy k x (y + 1) (d + 2 * (y + 1) + 1)
          else circleLoop cx cy k (x - 1) (y + 1) (d + 2 * (y + 1 - (x - 1)) + 1)) ↔
        ∃ x' y', y + 1 ≤ y' ∧ OnArc r x' y' ∧ p ∈ octants cx cy x' y' := by
      split
      next hd => exact ih (h.stay hd) (by omega)
      next hd => exact ih (h.moveIn hle (by omega)) (by omega)
    rw [circleLoop_succ hle, List.mem_append, hrest]
    constructor
    · rintro (hp | ⟨x', y', hy, hp⟩)
      · exact ⟨x, y, le_rfl, h.onArc hle, hp⟩
      · exact ⟨x', y', by omega, hp⟩
    · rintro ⟨x', y', hy, ha, hp⟩
      rcases hy.eq_or_lt with rfl | hlt
      · exact .inl (OnArc.unique h.row ha (h.onArc hle) ▸ hp)
      · exact .inr ⟨x', y', hlt, ha, hp⟩

end

/-- CirclePoints is the arc of the first octant and its images. -/
theorem mem_circlePoints_iff {r : Int} (h : 1 ≤ r) {cx cy : Int} {p : Int × Int} :
    p ∈ circlePoints cx cy r ↔
      ∃ x y, 0 ≤ y ∧ OnArc r x y ∧ p ∈ octants cx cy x y :=
  mem_circleLoop_iff (CircleInv.start h) (by omega)

/-- Settles O42: of the eight images of an offset of the octant, only the offset itself lies in the
octant. -/
theorem circlePointsFollowTheMidpointRule : Obligations.CirclePointsFollowTheMidpointRule := by
  unfold Obligations.CirclePointsFollowTheMidpointRule
  intro cx cy r x y hr h0 hle
  rw [mem_circlePoints_iff hr]
  constructor
  · rintro ⟨x', y', h0', ha, hp⟩
    have hle' := ha.octant
    rw [mem_octants_iff, abs_of_nonneg h0, abs_of_nonneg h0', abs_of_nonneg (h0.trans hle),
      abs_of_nonneg (h0'.trans hle')] at hp
    obtain ⟨rfl, rfl⟩ : x = x' ∧ y = y' := by omega
    exact ⟨ha.inner, ha.outer⟩
  · rintro ⟨hi, ho⟩
    exact ⟨x, y, h0, ⟨hle, hi, ho⟩, mem_octants_iff.2 (.inl ⟨rfl, rfl⟩)⟩

/-! #### R106: symmetry, and the band -/

/-- Every circle is a union of octants of offsets. -/
theorem mem_circlePoints_exists_octants {cx cy r : Int} {p : Int × Int}
    (h : p ∈ circlePoints cx cy r) :
    ∃ x y, p ∈ octants cx cy x y ∧ octants cx cy x y ⊆ circlePoints cx cy r := by
  rcases lt_trichotomy r 0 with hr | rfl | hr
  · rw [circlePoints_of_neg hr] at h
    cases h
  · rw [circlePoints_zero] at h ⊢
    exact ⟨0, 0, h, List.Subset.refl _⟩
  · obtain ⟨x, y, h0, ha, hp⟩ := (mem_circlePoints_iff hr).1 h
    exact ⟨x, y, hp, fun q hq => (mem_circlePoints_iff hr).2 ⟨x, y, h0, ha, hq⟩⟩

/-- R106 item 2 for every radius: an offset on the arc has its distance in [r - 1/2, r + 1/2). -/
theorem OnArc.band {r x y : Int} (hr : 1 ≤ r) (h0 : 0 ≤ y) (h : OnArc r x y) :
    (2 * r - 1) ^ 2 ≤ 4 * (x * x + y * y) ∧ 4 * (x * x + y * y) < (2 * r + 1) ^ 2 := by
  obtain ⟨ho, hi, hu⟩ := h
  have hx : x ≤ r := by
    by_contra hlt
    nlinarith
  constructor <;> nlinarith

/-- The images of an offset are as far from the centre as the offset. -/
theorem sq_add_sq_of_mem_octants {cx cy x y a b : Int} (h : (cx + a, cy + b) ∈ octants cx cy x y) :
    a * a + b * b = x * x + y * y := by
  rcases mem_octants_iff.1 h with ⟨ha, hb⟩ | ⟨ha, hb⟩
  · rw [abs_eq_iff_mul_self_eq.1 ha, abs_eq_iff_mul_self_eq.1 hb]
  · rw [abs_eq_iff_mul_self_eq.1 ha, abs_eq_iff_mul_self_eq.1 hb, add_comm]

/-- Settles O41: the eight images of an offset are plotted together, at one distance. -/
theorem circlePointsAreSymmetric : Obligations.CirclePointsAreSymmetric := by
  unfold Obligations.CirclePointsAreSymmetric
  constructor
  · intro cx cy r a b h
    obtain ⟨x, y, hp, hsub⟩ := mem_circlePoints_exists_octants h
    rw [mem_octants_iff] at hp
    refine ⟨hsub ?_, hsub ?_, hsub ?_⟩
    · rwa [sub_eq_add_neg, mem_octants_iff, abs_neg]
    · rwa [sub_eq_add_neg, mem_octants_iff, abs_neg]
    · rwa [mem_octants_iff, or_comm, and_comm, and_comm (a := |b| = |x|)]
  · intro cx cy a b h
    obtain ⟨x, y, h0, ha, hp⟩ := (mem_circlePoints_iff (by decide)).1 h
    rw [sq_add_sq_of_mem_octants hp]
    exact ha.band (by decide) h0

end Sys2Proof.Machine

/-! ### Triangles and upscaling (45_triangle_upscale.md) -/

namespace Sys2Proof.Machine

open Sys2Proof

/-! #### DRAW_TRIANGLE (R107) -/

/-- R107: the painted set is the union of the three line sets. -/
theorem mem_trianglePoints {x0 y0 x1 y1 x2 y2 : Int} {p : Int × Int} :
    p ∈ trianglePoints x0 y0 x1 y1 x2 y2 ↔
      p ∈ linePoints x0 y0 x1 y1 ∨ p ∈ linePoints x1 y1 x2 y2 ∨ p ∈ linePoints x2 y2 x0 y0 := by
  simp only [trianglePoints, List.mem_append, or_assoc]

/-- Settles O38: DRAW_TRIANGLE is the plot of the points of its three lines. -/
theorem drawTrianglePaintsThreeLines : Obligations.DrawTrianglePaintsThreeLines := by
  unfold Obligations.DrawTrianglePaintsThreeLines
  intro s a onEdge
  simp only [onEdge, ← mem_trianglePoints]
  exact s.needImage_drawPoints_spec _

/-! #### UPSCALE (R108 to R110) -/

/-- R109: within capacity the four written header registers hold their values without wrapping. -/
theorem Header.rescaled_spec {p : Params} (hp : p.wf = true) {h : Header}
    (hb : depthOk h.bpp.toNat = true) {nw nh : Nat} (hc : overCapacity p nw nh = false) :
    IsRescaled h (h.rescaled nw nh) nw nh h.bpp.toNat := by
  have hcap := Params.facts hp
  obtain ⟨hw, hh, -⟩ := overCapacity_false.1 hc
  exact {
    width := trunc32_toNat (hw.trans_lt hcap.maxW)
    height := trunc32_toNat (hh.trans_lt hcap.maxH)
    pixelDataSize := pixSize_toNat hp hb hc
    fileSize := fileBytes_toNat hp hb hc
    rest := rfl }

/-- R108: the state that UPSCALE completes in when its checks pass. -/
def State.upscaled (s : State) : State :=
  (s.putScaled (s.hdr.rescaled (s.width * s.opFactor) (s.height * s.opFactor))
    (Grid.upscale s.pb s.opFactor)).finish .none {}

/-- R108, R115: with an image, UPSCALE checks its factor, then the capacity. -/
theorem exec_upscale_present {s : State} (hi : HasImage s) :
    exec .upscale s =
      if s.opFactor = 0 then .next (s.raise .badArg)
      else if overCapacity s.cfg (s.width * s.opFactor) (s.height * s.opFactor) then
        .next (s.raise .capacity)
      else .next s.upscaled :=
  State.needImage_present hi.valid hi.consistent _

section
variable {s : State} (hi : HasImage s)
include hi

theorem exec_upscale_badArg (h0 : s.opFactor = 0) : exec .upscale s = .next (s.raise .badArg) := by
  rw [exec_upscale_present hi, if_pos h0]

theorem exec_upscale_capacity (hf : 0 < s.opFactor)
    (hc : overCapacity s.cfg (s.width * s.opFactor) (s.height * s.opFactor) = true) :
    exec .upscale s = .next (s.raise .capacity) := by
  rw [exec_upscale_present hi, if_neg hf.ne', if_pos hc]

theorem exec_upscale_upscaled (hf : 0 < s.opFactor)
    (hc : overCapacity s.cfg (s.width * s.opFactor) (s.height * s.opFactor) = false) :
    exec .upscale s = .next s.upscaled := by
  rw [exec_upscale_present hi, if_neg hf.ne', if_neg (ne_true_of_eq_false hc)]

end

theorem State.upscaled_completed (s : State) : Completed s.upscaled .none {} := by
  constructor <;> rfl

theorem State.upscaled_sameResults (s : State) : SameResults s s.upscaled := ⟨rfl, rfl, fun _ => rfl⟩

theorem State.upscaled_kept (s : State) : KeptByCommands s s.upscaled := by
  constructor <;> simp [State.upscaled, State.inByte]

/-- Settles O44: the check for an image, the two checks of the operand, then the replicated pixels
under the rescaled header. -/
theorem upscaleReplicatesPixels : Obligations.UpscaleReplicatesPixels := by
  unfold Obligations.UpscaleReplicatesPixels
  intro s hp f nw nh
  refine ⟨fun hv => State.needImage_absent hv _, exec_upscale_badArg,
    fun hi hf hc => exec_upscale_capacity hi hf (overCapacity_true.2 hc),
    fun hi hf hw hh hm => ?_⟩
  have hc : overCapacity s.cfg nw nh = false := overCapacity_false.2 ⟨hw, hh, hm⟩
  have ok := State.imageOk_iff.1 hi.consistent
  exact ⟨_, exec_upscale_upscaled hi hf hc, Header.rescaled_spec hp ok.depth hc,
    Grid.hasShape_upscale ok.shape f, fun x y _ _ => Grid.get?_upscale s.pb hf x y, hi.valid,
    s.upscaled_completed, s.upscaled_sameResults, s.upscaled_kept⟩

end Sys2Proof.Machine

/-! ### The step never stops (60_exceptions.md R112, R118; 93_implementation_defined.md U1, U6) -/

namespace Sys2Proof.Machine

open Sys2Proof

/-- R32: an image that is present is consistent. -/
theorem Inv.imageOk {s : State} (h : Inv s) (hv : s.status.valid = true) : s.imageOk = true := by
  simpa [State.imageInv, hv] using h.image

/-- U1, U6: where the invariant holds, no command meets the one fault of the model. -/
theorem Inv.exec_next {s : State} (h : Inv s) (i : Instr) : ∃ t, exec i s = .next t := by
  cases hx : exec i s with
  | next t => exact ⟨t, rfl⟩
  | fault f =>
    obtain ⟨hv, hbad⟩ := exec_fault hx
    exact absurd (h.imageOk hv) (ne_true_of_eq_false hbad)
  | refused r => exact absurd hx (exec_not_refused i s r)

theorem Inv.engineStep_next {s : State} (h : Inv s) : ∃ t, engineStep s = .next t := by
  cases hb : s.status.busy with
  | false => exact ⟨s, engineStep_idle hb⟩
  | true =>
    cases hd : decode s.latch.cmd with
    | ok i => rw [engineStep_ok hb hd]; exact h.exec_next i
    | error e => exact ⟨_, engineStep_error hb hd⟩

/-- Settles O14: the host's turn always ends, and the engine's does where R32 holds. -/
theorem stepNeverStops : Obligations.StepNeverStops := by
  unfold Obligations.StepNeverStops
  intro s hs
  rcases s.nextAgent_cases with hn | hn
  · exact ⟨_, step_eq_hostTurn hn⟩
  · rw [step_eq_engineStep hn]
    exact hs.takeTurn.engineStep_next

end Sys2Proof.Machine

/-! ### Errors and result flags (60_exceptions.md R112, R113, R114, R116) -/

namespace Sys2Proof.Machine

open Sys2Proof

/-- R113: a command that ends with an error has only raised it. -/
theorem CommandEffect.eq_raise {s t : State} (h : CommandEffect s t) (he : t.status.err ≠ .none) :
    t = s.raise t.status.err := by
  cases h with
  | raised => rfl
  | _ => exact absurd rfl he

/-- Settles O22: `raise` writes STATUS alone, and every error is raised. -/
theorem errorsAreAllOrNothing : Obligations.ErrorsAreAllOrNothing := by
  unfold Obligations.ErrorsAreAllOrNothing
  intro s t hb h he
  rcases engineStep_effect h with ⟨hidle, -⟩ | ⟨-, heff⟩
  · simp [hb] at hidle
  · exact heff.eq_raise he

/-- R116: the completions of the command `i`, told apart by the flags that it may set. -/
inductive FlagEffect (i : Instr) : State → Prop where
  /-- any code, and no flag -/
  | plain (u : State) (e : ResultCode) : FlagEffect i (u.finish e {})
  /-- a command that plots, which may have clipped (R94) -/
  | plotted (hi : i.Plots) (u : State) (clip : Bool) :
      FlagEffect i (u.finish .none { clip := clip })
  /-- a DECODE, which may warn (R80) -/
  | decoded (hi : i = .decode) (u : State) (trail hdrSize : Bool) :
      FlagEffect i (u.finish .none { warnTrail := trail, warnHdrSize := hdrSize })

theorem FlagEffect.of_needImage {i : Instr} {s t : State} {b : Host.Outcome State Fault Refusal}
    (h : s.needImage b = .next t) (hb : b = .next t → FlagEffect i t) : FlagEffect i t := by
  rcases State.needImage_next h with ⟨-, rfl⟩ | ⟨-, -, h⟩
  · exact .plain s .noImage
  · exact hb h

theorem FlagEffect.of_decodeBody (s : State) (n : Nat) (h : Header) :
    FlagEffect .decode (s.decodeBody n h) := by
  unfold State.decodeBody
  split_ifs
  iterate 4 exact .plain s _
  exact .decoded rfl _ _ _

theorem FlagEffect.of_checkConstruct {i : Instr} {s t : State} (ht : FlagEffect i t) :
    FlagEffect i (s.checkConstruct t) := by
  unfold State.checkConstruct
  split_ifs
  · exact .plain s .badArg
  · exact .plain s .capacity
  · exact ht

theorem FlagEffect.of_drawRect {i : Instr} {s t : State} {sel : Nat → Nat → Bool}
    (h : s.drawRect sel = .next t) : FlagEffect i t := by
  refine .of_needImage h fun hb => ?_
  split_ifs at hb <;> cases hb
  · exact .plain _ .none
  · exact .plain s .index

/-- R101, R105, R107: a command that plots a list of points sets CLIP alone. -/
theorem FlagEffect.of_drawPoints {i : Instr} (hi : i.Plots) {s t : State} {c : Color}
    {pts : List (Int × Int)} (h : s.needImage (.next (s.drawPoints c pts)) = .next t) :
    FlagEffect i t :=
  .of_needImage h fun hb => by cases hb; exact .plotted hi _ _

/-- How any command completes. -/
theorem exec_flagEffect {i : Instr} {s t : State} (h : exec i s = .next t) : FlagEffect i t := by
  cases i
  case decode =>
    rw [exec, execDecode] at h
    split_ifs at h <;> cases h
    · exact .plain s _
    · exact .plain s _
    · exact .of_decodeBody ..
  case construct =>
    rw [exec_construct] at h
    cases h
    exact .of_checkConstruct (.plain _ .none)
  case constructC =>
    rw [exec_constructC] at h
    cases h
    refine .of_checkConstruct ?_
    split_ifs
    · exact .plain s .index
    · exact .plain _ .none
  case encode => exact .of_needImage h fun hb => by cases hb; exact .plain _ .none
  case getPixel =>
    refine .of_needImage h fun hb => ?_
    split_ifs at hb
    · split at hb <;> cases hb
      exact .plain _ .none
    · cases hb; exact .plain s .index
  case setPixel =>
    refine .of_needImage h fun hb => ?_
    split_ifs at hb <;> cases hb
    · exact .plain _ .none
    · exact .plotted (by simp [Instr.Plots]) s true
  case rectOutline | rectFill => exact .of_drawRect h
  case drawLine | drawCircle | drawTriangle => exact .of_drawPoints (by simp [Instr.Plots]) h
  case upscale =>
    refine .of_needImage h fun hb => ?_
    split_ifs at hb <;> cases hb
    · exact .plain s .badArg
    · exact .plain s .capacity
    · exact .plain _ .none

section

variable {i : Instr} {t : State} (h : FlagEffect i t)
include h

/-- R116: with an error no flag is set. -/
theorem FlagEffect.err (he : t.status.err ≠ .none) :
    t.status.clip = false ∧ t.status.warnTrail = false ∧ t.status.warnHdrSize = false := by
  cases h with
  | plain => exact ⟨rfl, rfl, rfl⟩
  | _ => exact absurd rfl he

theorem FlagEffect.clip (hc : t.status.clip = true) :
    i.Plots ∧ t.status.warnTrail = false ∧ t.status.warnHdrSize = false := by
  cases h with
  | plotted hi => exact ⟨hi, rfl, rfl⟩
  | _ => simp at hc

theorem FlagEffect.warn (hw : t.status.warnTrail = true ∨ t.status.warnHdrSize = true) :
    i = .decode := by
  cases h with
  | decoded hi => exact hi
  | _ => simp at hw

end

/-- Settles O23: R112 from a command's effect, and R116 from the flags that the command may set. -/
theorem resultFlagsOnlyOnSuccess : Obligations.ResultFlagsOnlyOnSuccess := by
  unfold Obligations.ResultFlagsOnlyOnSuccess
  intro i s t h
  obtain ⟨hbusy, hdone, -⟩ := (exec_effect h).status
  have hf := exec_flagEffect h
  exact ⟨hbusy, hdone, hf.err, hf.clip, hf.warn⟩

/-- Settles O24: the other nine commands start with the check for an image. -/
theorem imageCommandsRaiseNoImage : Obligations.ImageCommandsRaiseNoImage := by
  unfold Obligations.ImageCommandsRaiseNoImage
  rintro i s ⟨hdecode, hconstruct, hconstructC⟩ hv
  cases i
  case decode => exact absurd rfl hdecode
  case construct => exact absurd rfl hconstruct
  case constructC => exact absurd rfl hconstructC
  all_goals exact State.needImage_absent hv _

end Sys2Proof.Machine

/-! ### The interrupt line (60_exceptions.md R120; 10_state.md R42) -/

namespace Sys2Proof.Machine

open Sys2Proof

theorem State.irq_iff (s : State) : s.irq = true ↔ s.status.done = true ∧ s.irqEn = true :=
  Bool.and_eq_true_iff

/-- R112, R120: a completion sets DONE and leaves IRQ_EN, so the line shows the mask. -/
theorem exec_irq {i : Instr} {s t : State} (h : exec i s = .next t) : t.irq = s.irqEn := by
  rw [State.irq, (exec_effect h).status.2.1, Bool.true_and, (exec_rowEffect h).kept.irqEn]

/-- R21: a write of 1 to bit 1 of STATUS lowers the line. -/
theorem irq_writeReg_status (s : State) (v : Word) :
    (s.writeReg .status v).irq = (s.status.done && !v.getLsbD 1 && s.irqEn) := rfl

/-- R28: a write to CTRL puts bit 0 in the place of the mask. -/
theorem irq_writeReg_ctrl (s : State) (v : Word) :
    (s.writeReg .ctrl v).irq = (s.status.done && v.getLsbD 0) := rfl

/-- Settles O56: the completion, then the writes to STATUS and to CTRL by their registers' rules. -/
theorem irqFollowsDoneAndEnable : Obligations.IrqFollowsDoneAndEnable := by
  unfold Obligations.IrqFollowsDoneAndEnable
  refine ⟨State.irq_iff, fun _ _ _ => exec_irq, fun s hp => ?_⟩
  simp only [access_write_reg hp, irq_writeReg_status, irq_writeReg_ctrl]
  refine ⟨?_, ?_, rfl, ?_⟩ <;> simp

end Sys2Proof.Machine

/-! ### Reset (70_reset_and_hazards.md R124, R125; 10_state.md R32, R37; 60_exceptions.md R116) -/

namespace Sys2Proof.Machine

open Sys2Proof

/-- R124, R126: the block after reset has no image, no flag, no length and no command. -/
theorem Inv.resetWith {p : Params} (hp : p.wf = true) (draws : Nat) :
    Inv (State.resetWith p draws) where
  cfg := hp
  image := rfl
  flags := rfl
  inLen := Nat.zero_le _
  latchLen hb := nomatch hb
  outLen := Nat.zero_le _
  inBuf := ⟨rfl, rfl⟩
  outBuf := ⟨rfl, rfl⟩

/-- Settles O12: the parameters' own constraint is all that the invariant asks of them. -/
theorem resetMeetsTheInvariant : Obligations.ResetMeetsTheInvariant := by
  unfold Obligations.ResetMeetsTheInvariant
  exact Inv.resetWith Config.params.ok 0

theorem Status.word_zero : Status.zero.word = 0 := by decide

theorem ctrlWord_false : ctrlWord false = 0 := by decide

/-- R31: a u16 header field of 0 reads as the word 0. -/
theorem zero_append_zero : (0#16 ++ (0 : Half) : Word) = 0 := by decide

/-- R124: after reset only ID (R29) and CAP_* (R30), which lie from 0x60 to 0x70, may read other
than 0. -/
theorem readReg_resetEvent (s : State) {r : Reg} (hid : r ≠ .id)
    (hcap : ¬(0x60 ≤ r.offset ∧ r.offset ≤ 0x70)) : s.resetEvent.readReg r = 0 := by
  cases r
  case id => exact absurd rfl hid
  case capMaxW | capMaxH | capMaxPixels | capIn | capOut => exact absurd (by decide) hcap
  case status => exact Status.word_zero
  case ctrl => exact ctrlWord_false
  case hdrSignature | hdrPlanes | hdrBpp => exact zero_append_zero
  all_goals rfl

/-- What a register reads does not depend on the host's operations. -/
theorem readReg_withScript (s : State) (sc : List HostOp) (r : Reg) :
    { s with script := sc }.readReg r = s.readReg r := by
  cases r <;> rfl

theorem hostTurn_reset {s : State} {rest : List HostOp} (hs : s.script = .reset :: rest) :
    s.hostTurn = { s.resetEvent with script := rest } := by
  rw [State.hostTurn, hs]

/-- Settles O57: the reset replaces every field of the block, whatever it was doing, and the fields
then read as R124's table says. -/
theorem resetGivesTheResetValues : Obligations.ResetGivesTheResetValues := by
  unfold Obligations.ResetGivesTheResetValues
  intro s rest hn hs
  refine ⟨{ s.takeTurn.resetEvent with script := rest }, ?_, rfl, rfl, rfl, rfl,
    Status.word_zero, rfl, fun r hid hcap => ?_⟩
  · rw [step_eq_hostTurn hn, hostTurn_reset (s := s.takeTurn) hs]
  · rw [readReg_withScript]
    exact readReg_resetEvent s.takeTurn hid hcap

end Sys2Proof.Machine

/-! ### A running command gets its engine step (70_reset_and_hazards.md R129) -/

namespace Sys2Proof.Machine

open Sys2Proof

theorem CommandEffect.turns {s t : State} (h : CommandEffect s t) : t.turns = s.turns := by
  cases h <;> rfl

theorem AccessEffect.turns {s t : State} (h : AccessEffect s t) : t.turns = s.turns := by
  cases h <;> rfl

/-- R56: every step spends one of the fixed turns, and none adds one. -/
theorem step_turns {s t : State} (h : step s = .next t) : t.turns = s.turns.tail := by
  rcases s.nextAgent_cases with hn | hn
  · rcases step_host h hn with ⟨-, rfl⟩ | ⟨a, _, _, _, -, rfl⟩ | ⟨-, _, rfl⟩
    · rfl
    · exact (access_effect s.takeTurn a).turns
    · rfl
  · rcases step_engine h hn with ⟨-, rfl⟩ | ⟨-, he, -⟩
    · rfl
    · exact he.turns

/-- R129: where no turn is fixed, a running command has the engine's turn. -/
theorem nextAgent_of_busy {s : State} (ht : s.turns = []) (hb : s.status.busy = true) :
    s.nextAgent = .engine := by
  rw [State.nextAgent, ht]
  exact if_pos hb

/-- R112: the engine's turn leaves BUSY = 0. -/
theorem step_engine_busy {s t : State} (h : step s = .next t) (hn : s.nextAgent = .engine) :
    t.status.busy = false := by
  rcases step_engine h hn with ⟨hb, rfl⟩ | ⟨-, he, -⟩
  · exact hb
  · exact he.status.1

theorem run_succ {s t : State} (h : step s = .next t) (k : Nat) :
    core.run (k + 1) s = core.run k t := by
  have hc : core.step s = .next t := h
  simp only [Host.Core.run, hc]

/-- Settles O15, by induction on the fixed turns: each step spends one and keeps the invariant, so
the machine does not stop; where none is left the engine moves. -/
theorem busyClearsWithinTheFixedTurns : Obligations.BusyClearsWithinTheFixedTurns := by
  unfold Obligations.BusyClearsWithinTheFixedTurns
  intro s hs
  induction hts : s.turns generalizing s with
  | nil =>
    cases hb : s.status.busy with
    | false => exact ⟨0, s, Nat.zero_le _, rfl, hb⟩
    | true =>
      obtain ⟨t, ht⟩ := stepNeverStops s hs
      exact ⟨1, t, le_rfl, run_succ ht 0, step_engine_busy ht (nextAgent_of_busy hts hb)⟩
  | cons a ts ih =>
    obtain ⟨u, hu⟩ := stepNeverStops s hs
    have hturns : u.turns = ts := by rw [step_turns hu, hts, List.tail_cons]
    obtain ⟨k, t, hk, hrun, hb⟩ := ih u (everyStepKeepsTheInvariant s u hs hu) hturns
    exact ⟨k + 1, t, Nat.succ_le_succ hk, (run_succ hu k).trans hrun, hb⟩

end Sys2Proof.Machine
